-- ==== Sys2Proof/Word.lean ====
section
/-! DEFINITION. The data widths of the block: a byte of a frame or buffer, a word of the host register bus. -/

namespace Sys2Proof

/-- A byte: every frame element, every buffer element and the checksum (00_scope.md R11, R13). -/
abbrev Byte := BitVec 8

/-- A host register value: 16-bit data (10_state.md R41). -/
abbrev Word := BitVec 16

/-- A 4-bit value: one hexadecimal digit, a memory-type code, the client identifier (00_scope.md R10). -/
abbrev Nibble := BitVec 4

end Sys2Proof
end

