-- ==== Sys2Proof/Config.lean ====
section
/-! DEFINITION. The configuration parameters of 00_scope.md R10: as the environment presents them at RESET
(RawParams) and as the block holds them until the next RESET (Params). -/

namespace Sys2Proof

/-- `P_RESP_CSUM_SPAN` (00_scope.md R10, 44_response_parser.md R201): the bytes of a response that its checksum covers. -/
inductive CsumSpan where
  /-- `DATA`: the data bytes only. -/
  | data
  /-- `DATA_ETX`: the data bytes and the ETX byte. -/
  | dataEtx
deriving DecidableEq, Repr

/-- The parameters as they stand at the block's boundary when a RESET samples them (70_reset_and_hazards.md R280).
A memory-type code may be any number here: 00_scope.md R10 says the model refuses one above 15. -/
structure RawParams where
  /-- `P_CLIENT_ID` -/
  clientId : Nibble
  /-- `P_MEMTYPE`, a finite partial map as a list of (prefix character, code) pairs -/
  memType : List (Byte × Nat)
  /-- `P_STRICT_RESPONSE` -/
  strictResponse : Bool
  /-- `P_RESP_CSUM_SPAN` -/
  respCsumSpan : CsumSpan
deriving DecidableEq, Repr

/-- The sampled parameters, every memory-type code in its 4 bits (00_scope.md R10). -/
structure Params where
  /-- `P_CLIENT_ID` -/
  clientId : Nibble
  /-- `P_MEMTYPE`, looked up by exact comparison of the prefix byte (42_header_encoder.md R161) -/
  memType : List (Byte × Nibble)
  /-- `P_STRICT_RESPONSE` -/
  strictResponse : Bool
  /-- `P_RESP_CSUM_SPAN` -/
  respCsumSpan : CsumSpan
deriving DecidableEq, Repr

/-- The defaults of 00_scope.md R10. DESIGN CHOICE (log 6, unsafe): R10 leaves every entry of `P_MEMTYPE` but
`'V'` (0x56) to 0x1 open; here there is no other entry. -/
def Params.defaults : Params where
  clientId := 1
  memType := [(0x56, 1)]
  strictResponse := false
  respCsumSpan := .dataEtx

end Sys2Proof
end

