-- ==== Sys2Proof/Syntax.lean ====
section
/-! DEFINITION. The rows of spec/opcode_table.json as one inductive, and the two forms in which their bits reach
the block: a word written to the register CMD, or a byte on the serial link. -/

namespace Sys2Proof

/-- One constructor per row of spec/opcode_table.json (30_encoding.md R101). The rows of format CMD are the host
commands of R95; the rows of formats HDROP and CTRL are bytes on the serial link (R88, R80; log 3). -/
inductive Instr where
  /-- CSUM_CLEAR (43_checksum.md R192) -/
  | csumClear
  /-- CSUM_FOLD b (43_checksum.md R193), b = OPND -/
  | csumFold (b : Byte)
  /-- HDR_BUILD_RD (42_header_encoder.md R170) -/
  | hdrBuildRd
  /-- HDR_BUILD_WR (42_header_encoder.md R171) -/
  | hdrBuildWr
  /-- TEST_CONNECTION (41_handshake.md R142) -/
  | testConnection
  /-- READ_VALUE (45_read_transaction.md R220) -/
  | readValue
  /-- OP_READ, the header op code byte `'0'` (30_encoding.md R88) -/
  | opRead
  /-- OP_WRITE, the header op code byte `'8'` (30_encoding.md R88) -/
  | opWrite
  /-- SOH (30_encoding.md R80) -/
  | soh
  /-- STX (30_encoding.md R80) -/
  | stx
  /-- ETX (30_encoding.md R80) -/
  | etx
  /-- EOT (30_encoding.md R80) -/
  | eot
  /-- ENQ (30_encoding.md R80) -/
  | enq
  /-- ACK (30_encoding.md R80) -/
  | ack
  /-- NAK (30_encoding.md R80) -/
  | nak
  /-- ETB (30_encoding.md R80) -/
  | etb
deriving DecidableEq, Repr

/-- The bits of an instruction where the block meets them (30_encoding.md R101). Neither form has a byte order:
a register is written whole (20_memory.md R65) and a stream element is one byte. -/
inductive InstrWord where
  /-- a word written to register CMD, index 0x00 (R93) -/
  | cmd (w : Word)
  /-- a byte transferred on the serial link (formats HDROP and CTRL) -/
  | link (b : Byte)
deriving DecidableEq, Repr

end Sys2Proof
end

