-- ==== Sys2Proof/WellFormed.lean ====
section
/-! DEFINITION. Well-formedness: of an instruction, of the parameters a RESET presents, of the sampled parameters. -/

namespace Sys2Proof

/-- Every instruction is well formed: its one operand, the byte of CSUM_FOLD, takes every 8-bit value
(30_encoding.md R94) and the others have none. What R96 calls ill-formed is a command WORD (`cmdWordWf` in
Sys2Proof/Decode.lean): no instruction stands for it. -/
def Instr.wf : Instr → Bool
  | .csumClear | .csumFold _ | .hdrBuildRd | .hdrBuildWr | .testConnection | .readValue => true
  | .opRead | .opWrite | .soh | .stx | .etx | .eot | .enq | .ack | .nak | .etb => true

/-- A list of pairs stands for a partial map only if no key stands twice (log 5). -/
def keysDistinct {α : Type} (m : List (Byte × α)) : Bool :=
  decide (m.map Prod.fst).Nodup

/-- 00_scope.md R10: `P_CLIENT_ID` in 1..15, every code of `P_MEMTYPE` at most 15, and `'V'` (0x56) mapped to 0x1. -/
def RawParams.wf (p : RawParams) : Bool :=
  p.clientId != 0 && p.memType.all (fun e => decide (e.2 ≤ 15)) && keysDistinct p.memType
    && p.memType.lookup 0x56 == some 1

/-- The same conditions on the sampled parameters, whose codes have 4 bits by type. -/
def Params.wf (p : Params) : Bool :=
  p.clientId != 0 && keysDistinct p.memType && p.memType.lookup 0x56 == some 1

end Sys2Proof
end

