-- ==== Sys2Proof/Decode.lean ====
section
/-! DEFINITION. The decoder of command words and link bytes (30_encoding.md R80, R88, R93, R95, R96) and, after it,
the encoder. -/

namespace Sys2Proof

/-! ## Code points -/

/-- SOH = 0x01 (30_encoding.md R80). PRESUMED (log 11): the spec marks the pairing of names and values as general
knowledge; the same for the seven codes below. -/
def codeSoh : Byte := 0x01
/-- STX = 0x02 (30_encoding.md R80) -/
def codeStx : Byte := 0x02
/-- ETX = 0x03 (30_encoding.md R80) -/
def codeEtx : Byte := 0x03
/-- EOT = 0x04 (30_encoding.md R80) -/
def codeEot : Byte := 0x04
/-- ENQ = 0x05 (30_encoding.md R80) -/
def codeEnq : Byte := 0x05
/-- ACK = 0x06 (30_encoding.md R80) -/
def codeAck : Byte := 0x06
/-- NAK = 0x15 (30_encoding.md R80) -/
def codeNak : Byte := 0x15
/-- ETB = 0x17 (30_encoding.md R80) -/
def codeEtb : Byte := 0x17
/-- `'0'` = 0x30 at header index 3 selects read (30_encoding.md R88) -/
def codeOpRead : Byte := 0x30
/-- `'8'` = 0x38 at header index 3 selects write (30_encoding.md R88) -/
def codeOpWrite : Byte := 0x38

/-! ## Fields of the command word -/

/-- `CODE`, bits 3:0 (30_encoding.md R93) -/
def cmdCode (w : Word) : Nibble := w.extractLsb' 0 4
/-- `RSV`, bits 7:4 (30_encoding.md R93) -/
def cmdRsv (w : Word) : Nibble := w.extractLsb' 4 4
/-- `OPND`, bits 15:8 (30_encoding.md R93) -/
def cmdOpnd (w : Word) : Byte := w.extractLsb' 8 8

/-- A command word that is not ill-formed in the sense of 30_encoding.md R96. -/
def cmdWordWf (w : Word) : Bool :=
  decide (1 ≤ (cmdCode w).toNat) && decide ((cmdCode w).toNat ≤ 6) && cmdRsv w == 0
    && (cmdOpnd w == 0 || cmdCode w == 2)

/-! ## Decoding -/

/-- Why a word is no instruction. -/
inductive DecodeError where
  /-- `CODE` is 0x0 or one of 0x7..0xF (30_encoding.md R96) -/
  | reservedCode
  /-- `RSV` is not 0 (30_encoding.md R96) -/
  | rsvNotZero
  /-- `OPND` is not 0 with a `CODE` other than 0x2 (30_encoding.md R96) -/
  | opndNotZero
  /-- a link byte that is no control code and no header op code: plain data (30_encoding.md R97) -/
  | dataByte
deriving DecidableEq, Repr

/-- A command without an operand: `OPND` must be 0 (30_encoding.md R93, R96). -/
def withoutOperand (w : Word) (i : Instr) : Except DecodeError Instr :=
  if cmdOpnd w = 0 then .ok i else .error .opndNotZero

/-- The command codes (30_encoding.md R95); ill-formed words are rejected by name (R96). -/
def decodeCmd (w : Word) : Except DecodeError Instr :=
  if cmdRsv w ≠ 0 then .error .rsvNotZero
  else match (cmdCode w).toNat with
    | 1 => withoutOperand w .csumClear
    | 2 => .ok (.csumFold (cmdOpnd w))
    | 3 => withoutOperand w .hdrBuildRd
    | 4 => withoutOperand w .hdrBuildWr
    | 5 => withoutOperand w .testConnection
    | 6 => withoutOperand w .readValue
    | _ => .error .reservedCode

/-- The control codes (30_encoding.md R80) and the header op codes (R88) among the bytes of the link. -/
def decodeLink (b : Byte) : Except DecodeError Instr :=
  if b = codeSoh then .ok .soh
  else if b = codeStx then .ok .stx
  else if b = codeEtx then .ok .etx
  else if b = codeEot then .ok .eot
  else if b = codeEnq then .ok .enq
  else if b = codeAck then .ok .ack
  else if b = codeNak then .ok .nak
  else if b = codeEtb then .ok .etb
  else if b = codeOpRead then .ok .opRead
  else if b = codeOpWrite then .ok .opWrite
  else .error .dataByte

/-- Decoding, total on every word of either form. -/
def decode : InstrWord → Except DecodeError Instr
  | .cmd w => decodeCmd w
  | .link b => decodeLink b

/-- The instruction the decoder reads from the bits `w` of a row of spec/opcode_table.json: 16 bits are a command
word (format CMD), 8 bits a byte on the link (formats HDROP and CTRL); there is no other width (R101). Log 13. -/
def decodeTableWord (nbits w : Nat) : Option Instr :=
  if nbits = 16 then (decodeCmd (BitVec.ofNat 16 w)).toOption
  else if nbits = 8 then (decodeLink (BitVec.ofNat 8 w)).toOption
  else none

/-! ## Encoding -/

/-- The command word of code `c` with operand `b`: OPND, RSV = 0, CODE (30_encoding.md R93). -/
def cmdWord (c : Nibble) (b : Byte) : Word := b ++ (0 : Nibble) ++ c

/-- The word of an instruction, from the tables of 30_encoding.md R80, R88 and R95. -/
def encode : Instr → InstrWord
  | .csumClear => .cmd (cmdWord 0x1 0)
  | .csumFold b => .cmd (cmdWord 0x2 b)
  | .hdrBuildRd => .cmd (cmdWord 0x3 0)
  | .hdrBuildWr => .cmd (cmdWord 0x4 0)
  | .testConnection => .cmd (cmdWord 0x5 0)
  | .readValue => .cmd (cmdWord 0x6 0)
  | .opRead => .link codeOpRead
  | .opWrite => .link codeOpWrite
  | .soh => .link codeSoh
  | .stx => .link codeStx
  | .etx => .link codeEtx
  | .eot => .link codeEot
  | .enq => .link codeEnq
  | .ack => .link codeAck
  | .nak => .link codeNak
  | .etb => .link codeEtb

end Sys2Proof
end

