-- ==== Sys2Proof/Machine/State.lean ====
section
/-! DEFINITION. The state: every element of 10_state.md R20, the sampled parameters, and the environment's side of
the ports (the two byte streams, the read data output, the events still to come). -/

namespace Sys2Proof.Machine

/-- `PHASE` (10_state.md R24). Values 11..15 are never held, so the type has none (log 12). -/
inductive Phase where
  /-- 0: no link command running -/
  | idle
  /-- 1: sending the enquiry frame -/
  | enqTx
  /-- 2: reading the handshake reply -/
  | enqRx
  /-- 3: sending the request header -/
  | hdrTx
  /-- 4: waiting for the reply to the header -/
  | ackRx
  /-- 5: reading the response frame -/
  | respRx
  /-- 6: sending the data acknowledge -/
  | ackTx
  /-- 7: waiting for the partner's EOT -/
  | eotRx
  /-- 8: sending the closing EOT -/
  | eotTx
  /-- 9: TEST_CONNECTION finished with success -/
  | link
  /-- 10: READ_VALUE finished with success -/
  | closed
deriving DecidableEq, Repr

/-- `ERR` (60_exceptions.md R250). Values 10..15 are never written, so the type has none (log 12). -/
inductive ErrCode where
  /-- 0 `NONE` -/
  | none
  /-- 1 `HANDSHAKE_REJECTED` -/
  | handshakeRejected
  /-- 2 `TIMEOUT` -/
  | timeout
  /-- 3 `UNKNOWN_MEMORY_TYPE` -/
  | unknownMemoryType
  /-- 4 `INVALID_ADDRESS` -/
  | invalidAddress
  /-- 5 `SIZE_OVERFLOW`, kept in the taxonomy, unreachable (90_conflicts.md C3) -/
  | sizeOverflow
  /-- 6 `SHORT_READ` -/
  | shortRead
  /-- 7 `REQUEST_REJECTED` -/
  | requestRejected
  /-- 8 `TRANSACTION_NOT_CLOSED` -/
  | transactionNotClosed
  /-- 9 `BAD_RESPONSE_FRAME`, strict mode only (R252) -/
  | badResponseFrame
deriving DecidableEq, Repr

/-- `OPK` (10_state.md R30): which link command is running. -/
inductive LinkCommand where
  /-- 0 -/
  | testConnection
  /-- 1 -/
  | readValue
deriving DecidableEq, Repr

/-- The events the block steps on (40_host_interface.md R120). `rx` is RX(b) with b the next byte of the partner's
stream (`State.rxStream`); `reset` carries the parameters that stand at the block when it happens
(70_reset_and_hazards.md R280; log 5). -/
inductive Event where
  /-- host register read of index i -/
  | regRd (i : Byte)
  /-- host register write of v to index i -/
  | regWr (i : Byte) (v : Word)
  /-- the link partner accepts the byte offered on TX -/
  | txAcc
  /-- the link partner delivers its next byte on RX -/
  | rx
  /-- the transport's read deadline has elapsed -/
  | rxTimeout
  /-- reset, sampling the parameters p -/
  | reset (p : RawParams)
deriving DecidableEq, Repr

/-- `PAYLOAD` as (index, byte) pairs in one canonical form (`Memory.wf`); an unlisted byte reads as
`Memory.unlisted` (log 7). -/
abbrev Memory := List Host.Cell

/-- The state of the model. -/
structure State where
  /-- `CSUM` (10_state.md R22) -/
  csum : Byte
  /-- `SIZE` (R23) -/
  size : Word
  /-- `ADDR_LEN` (R32) -/
  addrLen : BitVec 5
  /-- `ADDR_CHAR[0..15]` (R33) -/
  addrChar : Vector Byte 16
  /-- `PL_PTR` (R37) -/
  plPtr : Word
  /-- `PHASE` (R24) -/
  phase : Phase
  /-- `OPK` (R30) -/
  opk : LinkCommand
  /-- `IDX` (R31) -/
  idx : BitVec 17
  /-- `DONE` (R27) -/
  done : Bool
  /-- `ERR` (R28) -/
  err : ErrCode
  /-- `HOSTERR` (R29) -/
  hostErr : Bool
  /-- `HDR[0..16]` (R34) -/
  hdr : Vector Byte 17
  /-- `HDR_VALID` (R34) -/
  hdrValid : Bool
  /-- `ECHO[0..2]` (R35) -/
  echo : Vector Byte 3
  /-- `PAYLOAD[0..65534]` (R36) -/
  payload : Memory
  /-- `PL_LEN` (R36) -/
  plLen : Word
  /-- `RESP_STX` (R38) -/
  respStx : Byte
  /-- `RESP_ETX` (R38) -/
  respEtx : Byte
  /-- `RESP_CK` (R38) -/
  respCk : Byte
  /-- `RCSUM` (R38) -/
  rcsum : Byte
  /-- `STX_OK` (R39) -/
  stxOk : Bool
  /-- `ETX_OK` (R39) -/
  etxOk : Bool
  /-- `CSUM_OK` (R39) -/
  csumOk : Bool
  /-- the parameters sampled at the last RESET (70_reset_and_hazards.md R280; log 5) -/
  cfg : Params
  /-- the TX stream: bytes the partner has accepted, oldest first (20_memory.md R60, R68; log 2) -/
  txStream : List Byte
  /-- the RX stream: bytes that stand with the partner, next one first (20_memory.md R73; log 2) -/
  rxStream : List Byte
  /-- `reg_rdata`: what the last REG_RD returned (40_host_interface.md R123; log 9) -/
  regRdata : Word
  /-- the events still to come, next one first (40_host_interface.md R120, R122; log 1) -/
  events : List Event
deriving DecidableEq, Repr

/-- Right after reset: the values of 10_state.md R45. DESIGN CHOICE (logs 1, 6, 7, 9, 10): the parameters are the
defaults, every byte of `PAYLOAD` is 0x00, both streams and the event list are empty, `reg_rdata` is 0. -/
def State.reset : State where
  csum := 0x00
  size := 0x0000
  addrLen := 0
  addrChar := Vector.replicate 16 0x00
  plPtr := 0x0000
  phase := .idle
  opk := .testConnection
  idx := 0
  done := false
  err := .none
  hostErr := false
  hdr := Vector.replicate 17 0x00
  hdrValid := false
  echo := Vector.replicate 3 0x00
  payload := []
  plLen := 0
  respStx := 0x00
  respEtx := 0x00
  respCk := 0x00
  rcsum := 0x00
  stxOk := false
  etxOk := false
  csumOk := false
  cfg := Params.defaults
  txStream := []
  rxStream := []
  regRdata := 0
  events := []

/-- Why the model stops with a fault. It is raised only in states that no run from reset reaches
(`Inv` in Sys2Proof/Safety.lean rules them out). -/
inductive Fault where
  /-- Raised by a transfer in `ENQ_TX`, `ENQ_RX`, `HDR_TX` or `RESP_RX` while `IDX` lies outside the frame of that
  phase: no rule gives it an effect (10_state.md R31; log 8). Safe. -/
  | idxOutsideFrame
deriving DecidableEq, Repr

/-- Why the model refuses. -/
inductive Refusal where
  /-- Raised by `exec` for an instruction that has no meaning yet. Safe. -/
  | notModelled (mnemonic : String)
  /-- Raised by a RESET whose parameters 00_scope.md R10 calls ill-formed: "the model refuses it". Safe. -/
  | illFormedConfig
deriving DecidableEq, Repr

end Sys2Proof.Machine
end

