-- ==== Sys2Proof/Machine/Flags.lean ====
section
/-! DEFINITION. What is computed from the state: BUSY, the port outputs, the codes of PHASE and ERR, and the
registers STATUS and CONFIG. -/

namespace Sys2Proof.Machine

/-- The 4-bit value of `PHASE` (10_state.md R24). -/
def Phase.code : Phase → Nibble
  | .idle => 0
  | .enqTx => 1
  | .enqRx => 2
  | .hdrTx => 3
  | .ackRx => 4
  | .respRx => 5
  | .ackTx => 6
  | .eotRx => 7
  | .eotTx => 8
  | .link => 9
  | .closed => 10

/-- The 4-bit value of `ERR` (60_exceptions.md R250). -/
def ErrCode.code : ErrCode → Nibble
  | .none => 0
  | .handshakeRejected => 1
  | .timeout => 2
  | .unknownMemoryType => 3
  | .invalidAddress => 4
  | .sizeOverflow => 5
  | .shortRead => 6
  | .requestRejected => 7
  | .transactionNotClosed => 8
  | .badResponseFrame => 9

/-- `tx_valid` as a function of `PHASE` (40_host_interface.md R121). -/
def Phase.sends : Phase → Bool
  | .enqTx | .hdrTx | .ackTx | .eotTx => true
  | .idle | .enqRx | .ackRx | .respRx | .eotRx | .link | .closed => false

/-- `rx_ready` as a function of `PHASE` (40_host_interface.md R121). -/
def Phase.reads : Phase → Bool
  | .enqRx | .ackRx | .respRx | .eotRx => true
  | .idle | .enqTx | .hdrTx | .ackTx | .eotTx | .link | .closed => false

/-- `BUSY` as a function of `PHASE` (10_state.md R26). -/
def Phase.busy : Phase → Bool
  | .enqTx | .enqRx | .hdrTx | .ackRx | .respRx | .ackTx | .eotRx | .eotTx => true
  | .idle | .link | .closed => false

/-- `BUSY` (10_state.md R26): not stored. -/
def busy (s : State) : Bool := s.phase.busy

/-- Output `tx_valid` (40_host_interface.md R121). -/
def txValid (s : State) : Bool := s.phase.sends

/-- Output `rx_ready` (40_host_interface.md R121). -/
def rxReady (s : State) : Bool := s.phase.reads

/-- Output `done` (40_host_interface.md R136): a level, equal to `DONE`. -/
def doneOut (s : State) : Bool := s.done

/-- One bit of a register. -/
def bit (b : Bool) : BitVec 1 := if b then 1 else 0

/-- Register `STATUS` (10_state.md R40), bit 15 first. -/
def statusWord (s : State) : Word :=
  (0 : BitVec 1) ++ bit s.csumOk ++ bit s.etxOk ++ bit s.stxOk ++ s.phase.code ++ s.err.code
    ++ bit s.hdrValid ++ bit s.hostErr ++ bit s.done ++ bit (busy s)

/-- Bit 5 of `CONFIG`: 0 = `DATA`, 1 = `DATA_ETX` (10_state.md R21). -/
def spanBit : CsumSpan → BitVec 1
  | .data => 0
  | .dataEtx => 1

/-- Register `CONFIG` (10_state.md R21), bit 15 first. -/
def configWord (s : State) : Word :=
  (0 : BitVec 10) ++ spanBit s.cfg.respCsumSpan ++ bit s.cfg.strictResponse ++ s.cfg.clientId

end Sys2Proof.Machine
end

