-- ==== Sys2Proof/Machine/Operands.lean ====
section
/-! DEFINITION. The operand forms: the checksum fold, hexadecimal fields, the address string, the header encoder,
the fixed frames and the byte offered on TX. -/

namespace Sys2Proof.Machine

/-! ## The fold (43_checksum.md) -/

/-- `fold(s)`: the exclusive-or of all bytes, starting from 0x00, in byte order (43_checksum.md R190). -/
def fold (s : List Byte) : Byte := s.foldl (fun c b => c ^^^ b) 0x00

/-! ## Hexadecimal fields (30_encoding.md) -/

/-- `hexchar(n)`: one uppercase ASCII hexadecimal digit (30_encoding.md R83). The ASCII codes are general knowledge
to the spec (R82; log 11). -/
def hexchar (n : Nibble) : Byte :=
  if n < 10 then 0x30 + n.setWidth 8 else 0x41 + (n.setWidth 8 - 10)

/-- `hex_w(v)`: w digits, most significant first, zero-padded (30_encoding.md R84, 20_memory.md R63). R84 defines it
for v < 16^w only; every caller here meets that by its types or by a check before (42_header_encoder.md R165). -/
def hexField : (w : Nat) → (v : Nat) → List Byte
  | 0, _ => []
  | w + 1, v => hexField w (v / 16) ++ [hexchar (BitVec.ofNat 4 v)]

/-! ## The address string (42_header_encoder.md) -/

/-- The address string `ADDR_CHAR[0..ADDR_LEN-1]` (42_header_encoder.md R160). -/
def addrString (s : State) : List Byte := s.addrChar.toList.take s.addrLen.toNat

/-- Step 1, the memory type of the prefix (42_header_encoder.md R161). -/
def memTypeOf (p : Params) : List Byte → Except ErrCode Nibble
  | [] => .error .unknownMemoryType
  | c :: _ => match p.memType.lookup c with
    | none => .error .unknownMemoryType
    | some mc => .ok mc

/-- An octal digit `'0'`..`'7'` (42_header_encoder.md R162). -/
def isOctalDigit (c : Byte) : Bool := decide (0x30 ≤ c.toNat) && decide (c.toNat ≤ 0x37)

/-- The octal value, exact, most significant digit first (42_header_encoder.md R163). -/
def octalValue (ds : List Byte) : Nat := ds.foldl (fun a c => 8 * a + (c.toNat - 0x30)) 0

/-- Step 2: the digits (42_header_encoder.md R162) and their range (R164). -/
def parseDigits (ds : List Byte) : Except ErrCode Word :=
  if ds = [] then .error .invalidAddress
  else if ds.all isOctalDigit = false then .error .invalidAddress
  else if octalValue ds > 0xFFFF then .error .invalidAddress
  else .ok (BitVec.ofNat 16 (octalValue ds))

/-- Step 4: block count and last-block bytes (42_header_encoder.md R166) with the check of R167, which never fires
for a 16-bit size (90_conflicts.md C3). -/
def splitSize (size : Word) : Except ErrCode (Nat × Nat) :=
  if size.toNat / 256 > 255 then .error .sizeOverflow
  else .ok (size.toNat / 256, size.toNat % 256)

/-! ## The request header (42_header_encoder.md R168, 30_encoding.md R87) -/

/-- The 14 body bytes of the header. -/
def headerBody (client op mc : Nibble) (a16 : Word) (blk last : Nat) : List Byte :=
  hexField 2 client.toNat ++ [hexchar op] ++ [hexchar mc] ++ hexField 4 a16.toNat
    ++ hexField 2 blk ++ hexField 2 last ++ hexField 2 0x00

/-- The checksum span of the header: the body and ETB, indices 1..15 (30_encoding.md R89, 90_conflicts.md C1). -/
def headerSpan (client op mc : Nibble) (a16 : Word) (blk last : Nat) : List Byte :=
  headerBody client op mc a16 blk last ++ [codeEtb]

/-- `build_header`: the 17 bytes of the header; SOH and the checksum lie outside the span (R168). -/
def headerBytes (client op mc : Nibble) (a16 : Word) (blk last : Nat) : List Byte :=
  [codeSoh] ++ headerSpan client op mc a16 blk last ++ [fold (headerSpan client op mc a16 blk last)]

/-- The header as the contents of `HDR[0..16]`. -/
def buildHeader (client op mc : Nibble) (a16 : Word) (blk last : Nat) : Vector Byte 17 :=
  ⟨(headerBytes client op mc a16 blk last).toArray, by
    simp [headerBytes, headerSpan, headerBody, hexField]⟩

/-- `encode(op)` of 42_header_encoder.md R169: the checks in the source's order, the first failing one deciding the
error; it reads the operand registers and writes nothing (R160). -/
def encodeHeader (op : Nibble) (s : State) : Except ErrCode (Vector Byte 17) :=
  match memTypeOf s.cfg (addrString s) with
  | .error e => .error e
  | .ok mc => match parseDigits (addrString s).tail with
    | .error e => .error e
    | .ok a16 => match splitSize s.size with
      | .error e => .error e
      | .ok (blk, last) => .ok (buildHeader s.cfg.clientId op mc a16 blk last)

/-! ## The fixed frames and the byte offered on TX -/

/-- The client identifier as the raw byte 0x20 + `P_CLIENT_ID` (41_handshake.md R140). -/
def clientByte (p : Params) : Byte := 0x20 + p.clientId.setWidth 8

/-- `ENQF[0..2]`, the enquiry frame (30_encoding.md R85, 41_handshake.md R140). -/
def enqFrame (p : Params) : Vector Byte 3 := #v[0x4E, clientByte p, codeEnq]

/-- `EXPF[0..2]`, the expected handshake reply (30_encoding.md R86, 41_handshake.md R141). -/
def expFrame (p : Params) : Vector Byte 3 := #v[0x4E, clientByte p, codeAck]

/-- The byte the block offers on TX (40_host_interface.md R121): none while `tx_valid` = 0, and none where `IDX` lies
outside the frame, which no run reaches (log 8). -/
def txByte (s : State) : Option Byte :=
  match s.phase with
  | .enqTx => (enqFrame s.cfg)[s.idx.toNat]?
  | .hdrTx => s.hdr[s.idx.toNat]?
  | .ackTx => some codeAck
  | .eotTx => some codeEot
  | .idle | .enqRx | .ackRx | .respRx | .eotRx | .link | .closed => none

/-- Output `tx_byte` (40_host_interface.md R121): 0x00 while the block offers no byte. -/
def txByteOut (s : State) : Byte := (txByte s).getD 0x00

end Sys2Proof.Machine
end

