-- ==== Sys2Proof/Machine/Ops.lean ====
section
/-! DEFINITION. The shared operations: the payload buffer, ignoring a host access, accepting a command, the abort
(`raise`), building a header into HDR, sampling parameters and reset. -/

namespace Sys2Proof.Machine

/-! ## PAYLOAD (10_state.md R36) -/

/-- What an unlisted byte of `PAYLOAD` reads as, and so every byte of it after reset. DESIGN CHOICE (log 7, unsafe): the
spec leaves these contents unspecified (R36, R45; 93_implementation_defined.md I7: "any value internally"). -/
def Memory.unlisted : Byte := 0x00

/-- The byte of `PAYLOAD` at index k. -/
def Memory.read : Memory → Nat → Byte
  | [], _ => Memory.unlisted
  | (a, b) :: m, k => if k = a then b else Memory.read m k

/-- The entry (k, v) put in its place among rising indices. -/
def Memory.insert : Memory → Nat → Byte → Memory
  | [], k, v => [(k, v)]
  | (a, b) :: m, k, v =>
    if k < a then (k, v) :: (a, b) :: m
    else if k = a then (k, v) :: m
    else (a, b) :: Memory.insert m k v

/-- No entry at index k. -/
def Memory.erase (m : Memory) (k : Nat) : Memory := m.filter (fun c => c.1 != k)

/-- `PAYLOAD[k] <- v`, keeping the canonical form. -/
def Memory.write (m : Memory) (k : Nat) (v : Byte) : Memory :=
  if v = Memory.unlisted then Memory.erase m k else Memory.insert m k v

/-- The canonical form: indices strictly rising and inside `PAYLOAD[0..65534]`, and no entry equal to what an unlisted
byte reads as. -/
abbrev Memory.wf (m : Memory) : Prop :=
  m.Pairwise (fun c d => c.1 < d.1) ∧ ∀ c ∈ m, c.1 < 65535 ∧ c.2 ≠ Memory.unlisted

/-- `PAYLOAD[0..n-1]`. -/
def Memory.prefixBytes (m : Memory) : Nat → List Byte
  | 0 => []
  | n + 1 => Memory.prefixBytes m n ++ [Memory.read m n]

/-! ## Host accesses and command acceptance -/

/-- A host write that is ignored sets `HOSTERR` and nothing else (60_exceptions.md R258, 10_state.md R29). -/
def refuseWrite (s : State) : State := { s with hostErr := true }

/-- What the acceptance of any command writes (40_host_interface.md R129). -/
def accept (s : State) : State := { s with hostErr := false, done := false, err := .none }

/-- A command word's effect: rejected while `BUSY` = 1 (40_host_interface.md R130), else accepted (R129) and then the
command's own rule, in the same step. -/
def command (body : State → State) (s : State) : Host.Outcome State Fault Refusal :=
  if busy s then .next (refuseWrite s) else .next (body (accept s))

/-! ## The abort -/

/-- `raise E` (60_exceptions.md R253), the one way an error is taken: the error code, `DONE`, and `PHASE` to `IDLE`
when a link command was running; a local command leaves `PHASE` (90_conflicts.md C6). Every other element keeps the
value the step gives it. There is no return from it (R259). -/
def raise (e : ErrCode) (s : State) : State :=
  { s with err := e, done := true, phase := if busy s then .idle else s.phase }

/-! ## Building a header into HDR -/

/-- HDR_BUILD after acceptance (42_header_encoder.md R170, R171); on an error `HDR` keeps its contents (R172). -/
def hdrBuild (op : Nibble) (s : State) : State :=
  match encodeHeader op s with
  | .error e => raise e { s with hdrValid := false }
  | .ok h => { s with hdr := h, hdrValid := true, done := true }

/-! ## Parameters and reset -/

/-- The parameters a RESET samples, or none where 00_scope.md R10 calls them ill-formed. -/
def sampleParams (p : RawParams) : Option Params :=
  if p.wf then
    some { clientId := p.clientId, memType := p.memType.map (fun e => (e.1, BitVec.ofNat 4 e.2)),
           strictResponse := p.strictResponse, respCsumSpan := p.respCsumSpan }
  else none

/-- The RESET event (70_reset_and_hazards.md R280): every element at its reset value, the parameters sampled. It does
not touch the transport (R281), so both streams stay; the environment's events and the read data output are not the
block's (logs 1, 9). -/
def resetWith (c : Params) (s : State) : State :=
  { State.reset with
    cfg := c, txStream := s.txStream, rxStream := s.rxStream, regRdata := s.regRdata, events := s.events }

/-- RESET with the parameters that stand at the block; ill-formed ones are refused (00_scope.md R10). -/
def resetEvent (p : RawParams) (s : State) : Host.Outcome State Fault Refusal :=
  match sampleParams p with
  | none => .refused .illFormedConfig
  | some c => .next (resetWith c s)

end Sys2Proof.Machine
end

