-- ==== Sys2Proof/Machine/Checksum.lean ====
section
/-! DEFINITION. The checksum generator's commands CSUM_CLEAR and CSUM_FOLD (43_checksum.md). -/

namespace Sys2Proof.Machine

/-- CSUM_CLEAR (43_checksum.md R192). -/
def execCsumClear (s : State) : Host.Outcome State Fault Refusal :=
  command (fun t => { t with csum := 0x00, done := true }) s

/-- CSUM_FOLD b (43_checksum.md R193). -/
def execCsumFold (b : Byte) (s : State) : Host.Outcome State Fault Refusal :=
  command (fun t => { t with csum := t.csum ^^^ b, done := true }) s

end Sys2Proof.Machine
end

