-- ==== Sys2Proof/Machine/Header.lean ====
section
/-! DEFINITION. The header commands HDR_BUILD_RD and HDR_BUILD_WR (42_header_encoder.md). -/

namespace Sys2Proof.Machine

/-- HDR_BUILD_RD (42_header_encoder.md R170): op = 0x0. -/
def execHdrBuildRd (s : State) : Host.Outcome State Fault Refusal :=
  command (hdrBuild 0x0) s

/-- HDR_BUILD_WR (42_header_encoder.md R171): op = 0x8. It only builds the header: no command sends one (R232). -/
def execHdrBuildWr (s : State) : Host.Outcome State Fault Refusal :=
  command (hdrBuild 0x8) s

end Sys2Proof.Machine
end

