-- ==== Sys2Proof/Machine/Link.lean ====
section
/-! DEFINITION. The link commands TEST_CONNECTION and READ_VALUE, and the port events they go on by: the handlers of
TX_ACC, RX and RX_TIMEOUT in every phase (40_host_interface.md R132 to R134). -/

namespace Sys2Proof.Machine

/-! ## Acceptance -/

/-- What both link commands write at acceptance: the start of the handshake (41_handshake.md R142,
45_read_transaction.md R220). -/
def startHandshake (k : LinkCommand) (s : State) : State :=
  { s with opk := k, echo := #v[0x00, 0x00, 0x00], idx := 0, phase := .enqTx }

/-- What READ_VALUE clears beside that (45_read_transaction.md R220). -/
def clearResponse (s : State) : State :=
  { s with
    hdrValid := false, plLen := 0, respStx := 0x00, respEtx := 0x00, respCk := 0x00, rcsum := 0x00,
    stxOk := false, etxOk := false, csumOk := false }

/-- TEST_CONNECTION (41_handshake.md R142). -/
def execTestConnection (s : State) : Host.Outcome State Fault Refusal :=
  command (startHandshake .testConnection) s

/-- READ_VALUE (45_read_transaction.md R220). -/
def execReadValue (s : State) : Host.Outcome State Fault Refusal :=
  command (fun t => startHandshake .readValue (clearResponse t)) s

/-! ## RX -/

/-- Handshake complete, for READ_VALUE (45_read_transaction.md R221): the header is built in this step, so an address
error is found after the enquiry exchange. -/
def startHeader (s : State) : State :=
  match encodeHeader 0x0 s with
  | .error e => raise e s
  | .ok h => { s with hdr := h, hdrValid := true, idx := 0, phase := .hdrTx }

/-- Handshake complete (41_handshake.md R145), with the third reply byte already in `ECHO`. -/
def handshakeComplete (s : State) : State :=
  if s.echo ≠ expFrame s.cfg then raise .handshakeRejected s
  else match s.opk with
    | .testConnection => { s with phase := .link, done := true }
    | .readValue => startHeader s

/-- RX(b) in `ENQ_RX` (41_handshake.md R144). -/
def rxEnq (b : Byte) (s : State) : Host.Outcome State Fault Refusal :=
  if h : s.idx.toNat < 3 then
    let t : State := { s with echo := s.echo.set s.idx.toNat b h }
    if s.idx.toNat < 2 then .next { t with idx := s.idx + 1 } else .next (handshakeComplete t)
  else .fault .idxOutsideFrame

/-- RX(b) in `ACK_RX` (45_read_transaction.md R223). -/
def rxAck (b : Byte) (s : State) : State :=
  if b = codeAck then { s with idx := 0, phase := .respRx } else raise .requestRejected s

/-- A data byte of the response (44_response_parser.md R203). -/
def respData (b : Byte) (s : State) : State :=
  { s with
    payload := Memory.write s.payload (s.idx.toNat - 1) b, plLen := s.idx.setWidth 16,
    rcsum := s.rcsum ^^^ b, idx := s.idx + 1 }

/-- The ETX position of the response (44_response_parser.md R204). -/
def respEtxByte (b : Byte) (s : State) : State :=
  { s with
    respEtx := b, rcsum := if s.cfg.respCsumSpan = .dataEtx then s.rcsum ^^^ b else s.rcsum, idx := s.idx + 1 }

/-- The three checks of the response, recorded with the checksum byte (44_response_parser.md R205). -/
def respChecks (b : Byte) (s : State) : State :=
  { s with
    respCk := b, stxOk := s.respStx == codeStx, etxOk := s.respEtx == codeEtx, csumOk := s.rcsum == b }

/-- The checksum position, the last byte of the response (44_response_parser.md R205, R207, R208). -/
def respLast (b : Byte) (s : State) : State :=
  let t := respChecks b s
  if t.cfg.strictResponse && !(t.stxOk && t.etxOk && t.csumOk) then raise .badResponseFrame t
  else { t with idx := 0, phase := .ackTx }

/-- RX(b) in `RESP_RX`, by `IDX` (44_response_parser.md R202 to R205). -/
def rxResp (b : Byte) (s : State) : Host.Outcome State Fault Refusal :=
  if s.idx.toNat = 0 then .next { s with respStx := b, idx := 1 }
  else if s.idx.toNat ≤ s.size.toNat then .next (respData b s)
  else if s.idx.toNat = s.size.toNat + 1 then .next (respEtxByte b s)
  else if s.idx.toNat = s.size.toNat + 2 then .next (respLast b s)
  else .fault .idxOutsideFrame

/-- RX(b) in `EOT_RX` (45_read_transaction.md R226). -/
def rxEot (b : Byte) (s : State) : State :=
  if b = codeEot then { s with phase := .eotTx } else raise .transactionNotClosed s

/-- RX(b): the partner delivers b (40_host_interface.md R133). Where `rx_ready` = 0 the byte is not consumed (R135). -/
def rxByte (b : Byte) (s : State) : Host.Outcome State Fault Refusal :=
  match s.phase with
  | .enqRx => rxEnq b s
  | .ackRx => .next (rxAck b s)
  | .respRx => rxResp b s
  | .eotRx => .next (rxEot b s)
  | .idle | .enqTx | .hdrTx | .ackTx | .eotTx | .link | .closed => .next s

/-! ## TX_ACC -/

/-- What TX_ACC does to the sequencer (40_host_interface.md R132): 41_handshake.md R143, 45_read_transaction.md R222,
R225 and R228. -/
def txAdvance (s : State) : State :=
  match s.phase with
  | .enqTx => if s.idx.toNat < 2 then { s with idx := s.idx + 1 } else { s with idx := 0, phase := .enqRx }
  | .hdrTx => if s.idx.toNat < 16 then { s with idx := s.idx + 1 } else { s with idx := 0, phase := .ackRx }
  | .ackTx => { s with phase := .eotRx }
  | .eotTx => { s with phase := .closed, done := true }
  | .idle | .enqRx | .ackRx | .respRx | .eotRx | .link | .closed => s

/-- TX_ACC of the offered byte b, which joins the TX stream (20_memory.md R68). -/
def txAccept (b : Byte) (s : State) : State :=
  { txAdvance s with txStream := s.txStream ++ [b] }

/-! ## One byte on the link, and the timeout -/

/-- The transfer of the byte b on the link: RX(b) in a phase that reads, TX_ACC in a phase that sends where b is the
byte the block offers, and no transfer otherwise (40_host_interface.md R132, R133, R135; log 3). The block never
sends and reads in one phase (20_memory.md R74). -/
def linkByte (b : Byte) (s : State) : Host.Outcome State Fault Refusal :=
  if rxReady s then rxByte b s
  else if txByte s = some b then .next (txAccept b s)
  else .next s

/-- RX_TIMEOUT (40_host_interface.md R134): an error in the phases that read, nothing in the others. -/
def rxTimeout (s : State) : State :=
  match s.phase with
  | .enqRx | .ackRx | .eotRx => raise .timeout s
  | .respRx => raise .shortRead s
  | .idle | .enqTx | .hdrTx | .ackTx | .eotTx | .link | .closed => s

end Sys2Proof.Machine
end

