-- ==== Sys2Proof/Machine/LinkBytes.lean ====
section
/-! DEFINITION. The rows of formats HDROP and CTRL: bytes on the link (30_encoding.md R80, R88, R97, R101; log 3). Each
is the transfer of its byte; what the byte means depends only on the phase (R97). -/

namespace Sys2Proof.Machine

/-- OP_READ, `'0'` (30_encoding.md R88): the op code byte of the read header at index 3 of `HDR_TX`. -/
def execOpRead (s : State) : Host.Outcome State Fault Refusal := linkByte codeOpRead s

/-- OP_WRITE, `'8'` (30_encoding.md R88): the block never sends a write header (45_read_transaction.md R232). -/
def execOpWrite (s : State) : Host.Outcome State Fault Refusal := linkByte codeOpWrite s

/-- SOH (30_encoding.md R80): the first byte of the request header. -/
def execSoh (s : State) : Host.Outcome State Fault Refusal := linkByte codeSoh s

/-- STX (30_encoding.md R80): the first byte of the response frame, checked only by `STX_OK`. -/
def execStx (s : State) : Host.Outcome State Fault Refusal := linkByte codeStx s

/-- ETX (30_encoding.md R80): the byte after the response data, checked only by `ETX_OK`. -/
def execEtx (s : State) : Host.Outcome State Fault Refusal := linkByte codeEtx s

/-- EOT (30_encoding.md R80): the partner's end of transaction, then the block's closing byte. -/
def execEot (s : State) : Host.Outcome State Fault Refusal := linkByte codeEot s

/-- ENQ (30_encoding.md R80): the last byte of the enquiry frame. -/
def execEnq (s : State) : Host.Outcome State Fault Refusal := linkByte codeEnq s

/-- ACK (30_encoding.md R80): the last byte of the handshake reply, the reply to the header, the data acknowledge. -/
def execAck (s : State) : Host.Outcome State Fault Refusal := linkByte codeAck s

/-- NAK (30_encoding.md R80): never sent by the block; received, it is one of the bytes that are not ACK. -/
def execNak (s : State) : Host.Outcome State Fault Refusal := linkByte codeNak s

/-- ETB (30_encoding.md R80): byte 15 of the request header. -/
def execEtb (s : State) : Host.Outcome State Fault Refusal := linkByte codeEtb s

end Sys2Proof.Machine
end

