-- ==== Sys2Proof/Machine/Dispatch.lean ====
section
/-! DEFINITION. One arm per constructor of Instr, each one direct call of its meaning. -/

namespace Sys2Proof.Machine

def exec (i : Instr) (s : State) : Host.Outcome State Fault Refusal :=
  match i with
  | .csumClear => Sys2Proof.Machine.execCsumClear s
  | .csumFold b => Sys2Proof.Machine.execCsumFold b s
  | .hdrBuildRd => Sys2Proof.Machine.execHdrBuildRd s
  | .hdrBuildWr => Sys2Proof.Machine.execHdrBuildWr s
  | .testConnection => Sys2Proof.Machine.execTestConnection s
  | .readValue => Sys2Proof.Machine.execReadValue s
  | .opRead => Sys2Proof.Machine.execOpRead s
  | .opWrite => Sys2Proof.Machine.execOpWrite s
  | .soh => Sys2Proof.Machine.execSoh s
  | .stx => Sys2Proof.Machine.execStx s
  | .etx => Sys2Proof.Machine.execEtx s
  | .eot => Sys2Proof.Machine.execEot s
  | .enq => Sys2Proof.Machine.execEnq s
  | .ack => Sys2Proof.Machine.execAck s
  | .nak => Sys2Proof.Machine.execNak s
  | .etb => Sys2Proof.Machine.execEtb s

end Sys2Proof.Machine
end

