-- ==== Sys2Proof/Machine/HostPort.lean ====
section
/-! DEFINITION. The host register port: REG_RD (40_host_interface.md R123) and REG_WR to every register but CMD
(R124 to R128), over the map of 10_state.md R41. -/

namespace Sys2Proof.Machine

/-- Register `PL_DATA` (10_state.md R37). -/
def plData (s : State) : Word :=
  if s.plPtr.toNat < s.plLen.toNat then (Memory.read s.payload s.plPtr.toNat).setWidth 16 else 0x0000

/-- `value_of(i)`: what a read of index i returns (10_state.md R41, R42); `CMD` and the reserved indices read 0x0000,
narrower registers read zero-extended. -/
def regValue (s : State) (i : Byte) : Word :=
  match i.toNat with
  | 0x01 => statusWord s
  | 0x02 => configWord s
  | 0x03 => s.csum.setWidth 16
  | 0x04 => s.size
  | 0x05 => s.addrLen.setWidth 16
  | 0x06 => s.plPtr
  | 0x07 => plData s
  | 0x08 => s.plLen
  | 0x09 => s.respStx.setWidth 16
  | 0x0A => s.respEtx.setWidth 16
  | 0x0B => s.respCk.setWidth 16
  | 0x0C => s.rcsum.setWidth 16
  | n =>
    if 0x0D ≤ n ∧ n ≤ 0x0F then (s.echo[n - 0x0D]?.getD 0).setWidth 16
    else if 0x10 ≤ n ∧ n ≤ 0x1F then (s.addrChar[n - 0x10]?.getD 0).setWidth 16
    else if 0x20 ≤ n ∧ n ≤ 0x30 then (s.hdr[n - 0x20]?.getD 0).setWidth 16
    else 0x0000

/-- REG_RD(i) (40_host_interface.md R123): the value appears on `reg_rdata`; no element of the block is written. -/
def regRead (i : Byte) (s : State) : State := { s with regRdata := regValue s i }

/-- `ADDR_LEN` write, not busy (40_host_interface.md R126). -/
def writeAddrLen (v : Word) (s : State) : State :=
  if v.toNat ≤ 16 then { s with addrLen := v.setWidth 5 } else refuseWrite s

/-- `ADDR_CHAR[k]` write, not busy (40_host_interface.md R127). -/
def writeAddrChar (k : Nat) (v : Word) (s : State) : State :=
  if v.toNat ≤ 0xFF then { s with addrChar := s.addrChar.setIfInBounds k (v.setWidth 8) } else refuseWrite s

/-- REG_WR(i, v) to a register other than `CMD` (40_host_interface.md R124): ignored while `BUSY` = 1, and at a
read-only or reserved index. -/
def regWrite (i : Byte) (v : Word) (s : State) : State :=
  if busy s then refuseWrite s
  else match i.toNat with
    | 0x04 => { s with size := v }
    | 0x05 => writeAddrLen v s
    | 0x06 => { s with plPtr := v }
    | n => if 0x10 ≤ n ∧ n ≤ 0x1F then writeAddrChar (n - 0x10) v s else refuseWrite s

end Sys2Proof.Machine
end

