-- ==== Sys2Proof/Machine/Events.lean ====
section
/-! DEFINITION. From the next event to its effect: the instruction word an event brings (fetch), what the event takes
from the environment's lists (consume), and the handlers. -/

namespace Sys2Proof.Machine

/-- The instruction word the next event brings, if it brings one: a write to `CMD` its word; TX_ACC the byte the block
offers; RX the partner's next byte, where `rx_ready` = 1 (40_host_interface.md R120, R121). -/
def fetch (s : State) : Option InstrWord :=
  match s.events with
  | .regWr i v :: _ => if i = 0x00 then some (.cmd v) else none
  | .txAcc :: _ => (txByte s).map .link
  | .rx :: _ => if rxReady s then s.rxStream.head?.map .link else none
  | .regRd _ :: _ | .rxTimeout :: _ | .reset _ :: _ | [] => none

/-- The next event taken from the list, and with RX, where `rx_ready` = 1, the delivered byte taken from the partner's
stream; where `rx_ready` = 0 the byte stays with the partner (20_memory.md R73, 40_host_interface.md R135). -/
def consume (s : State) : State :=
  match s.events with
  | .rx :: es => { s with events := es, rxStream := if rxReady s then s.rxStream.tail else s.rxStream }
  | _ :: es => { s with events := es }
  | [] => s

/-- A word that is no instruction: an ill-formed command word only sets `HOSTERR` (40_host_interface.md R130,
30_encoding.md R96); a link byte outside the table is transferred like any other (R97). -/
def runUnlisted (w : InstrWord) (s : State) : Host.Outcome State Fault Refusal :=
  match w with
  | .cmd _ => .next (refuseWrite s)
  | .link b => linkByte b s

/-- The effect of an instruction word. -/
def runWord (w : InstrWord) (s : State) : Host.Outcome State Fault Refusal :=
  match decode w with
  | .ok i => exec i s
  | .error _ => runUnlisted w s

/-- The effect of an event that brings no instruction word. TX_ACC and RX come here when they are not enabled and then
change nothing (40_host_interface.md R135); TX_ACC with `tx_valid` = 1 and `IDX` outside the frame faults (log 8). -/
def runEvent (e : Event) (s : State) : Host.Outcome State Fault Refusal :=
  match e with
  | .regRd i => .next (regRead i s)
  | .regWr i v => .next (regWrite i v s)
  | .txAcc => if txValid s then .fault .idxOutsideFrame else .next s
  | .rx => .next s
  | .rxTimeout => .next (rxTimeout s)
  | .reset p => resetEvent p s

/-- The next event applied to the state; with no event the block holds its state (40_host_interface.md R120,
60_exceptions.md R267). -/
def runNext (s : State) : Host.Outcome State Fault Refusal :=
  match s.events with
  | [] => .next s
  | e :: _ => match fetch s with
    | some w => runWord w (consume s)
    | none => runEvent e (consume s)

/-- The state whose next event brings the word w: a write to `CMD`; or, for a link byte, TX_ACC where the block offers
exactly that byte, else RX with the byte first in the partner's stream. No byte is fetched while `rx_ready` = 0, so then
the block is put at the first byte of `ENQ_RX`, the first phase that reads (log 1). -/
def placeWord (w : InstrWord) (s : State) : State :=
  match w with
  | .cmd v => { s with events := .regWr 0x00 v :: s.events }
  | .link b =>
    if txByte s = some b then { s with events := .txAcc :: s.events }
    else if rxReady s then { s with events := .rx :: s.events, rxStream := b :: s.rxStream }
    else { s with events := .rx :: s.events, rxStream := b :: s.rxStream, phase := .enqRx, idx := 0 }

end Sys2Proof.Machine
end

