-- ==== Sys2Proof/Machine/Step.lean ====
section
/-! DEFINITION. The step of the machine, and where an instruction word is placed so that the next step runs it. -/

namespace Sys2Proof.Machine

/-- One step: the next event of the list (40_host_interface.md R120). -/
def step (s : State) : Host.Outcome State Fault Refusal := runNext s

/-- `s` with the word `w` of `nbits` bits where the next step fetches: 16 bits a command word, otherwise a link byte. -/
def State.withFetchWord (s : State) (nbits w : Nat) : State :=
  if nbits = 16 then placeWord (.cmd (BitVec.ofNat 16 w)) s else placeWord (.link (BitVec.ofNat 8 w)) s

end Sys2Proof.Machine
end

