-- ==== Sys2Proof/Safety.lean ====
section
/-! DEFINITION. What the reachable states satisfy, and what counts as a safe run: no step from a state with `Inv`
stops, but for a RESET with ill-formed parameters. -/

namespace Sys2Proof.Machine

/-- `IDX` lies inside the frame that the phase transfers (10_state.md R31); it is 0 in the one-byte frames, and never
exceeds 65537. -/
def idxInFrame (s : State) : Prop :=
  match s.phase with
  | .enqTx | .enqRx => s.idx.toNat ≤ 2
  | .hdrTx => s.idx.toNat ≤ 16
  | .respRx => s.idx.toNat ≤ s.size.toNat + 2
  | .ackRx | .ackTx | .eotRx | .eotTx => s.idx.toNat = 0
  | .idle | .link | .closed => s.idx.toNat ≤ 65537

/-- The command that the phase belongs to (10_state.md R24, R30): from `HDR_TX` on it is a READ_VALUE, whose header is
built; `LINK` is left by TEST_CONNECTION, `CLOSED` by READ_VALUE. -/
def commandOfPhase (s : State) : Prop :=
  match s.phase with
  | .hdrTx | .ackRx | .respRx | .ackTx | .eotRx | .eotTx => s.opk = .readValue ∧ s.hdrValid = true
  | .link => s.opk = .testConnection
  | .closed => s.opk = .readValue
  | .idle | .enqTx | .enqRx => True

/-- `PL_LEN` counts the data bytes received so far (10_state.md R36, 44_response_parser.md R200, R203, R209). -/
def payloadProgress (s : State) : Prop :=
  match s.phase with
  | .respRx => s.plLen.toNat = min (s.idx.toNat - 1) s.size.toNat
  | .ackTx | .eotRx | .eotTx => s.plLen = s.size
  | .hdrTx | .ackRx => s.plLen = 0
  | .enqTx | .enqRx => s.opk = .readValue → s.plLen = 0
  | .idle | .link | .closed => True

/-- From the acceptance of a READ_VALUE until its response starts, the response reports are 0 (44_response_parser.md
R200). -/
def reportsCleared (s : State) : Prop :=
  s.phase = .hdrTx ∨ s.phase = .ackRx ∨ ((s.phase = .enqTx ∨ s.phase = .enqRx) ∧ s.opk = .readValue) →
    s.respStx = 0x00 ∧ s.respEtx = 0x00 ∧ s.respCk = 0x00 ∧ s.rcsum = 0x00 ∧ s.stxOk = false ∧ s.etxOk = false ∧
      s.csumOk = false

/-- The invariant of the machine: it holds at reset and every step keeps it. -/
structure Inv (s : State) : Prop where
  /-- `IDX` inside its frame (10_state.md R31) -/
  idxFrame : idxInFrame s
  /-- `ADDR_LEN` in 0..16 (10_state.md R32) -/
  addrLen : s.addrLen.toNat ≤ 16
  /-- `PAYLOAD` in its canonical form (20_memory.md R64) -/
  payloadWf : Memory.wf s.payload
  /-- `DONE` is 0 and `ERR` is `NONE` while a link command runs (10_state.md R27, R28) -/
  busyNotDone : busy s = true → s.done = false ∧ s.err = .none
  /-- `DONE` is 0 outside a link command only after a reset (10_state.md R27) -/
  notDone : s.done = false → busy s = false → s.phase = .idle ∧ s.err = .none
  /-- the phase and the command agree (10_state.md R24) -/
  command : commandOfPhase s
  /-- `PL_LEN` and the phase agree (10_state.md R36) -/
  progress : payloadProgress s
  /-- the response reports are cleared before the response (44_response_parser.md R200) -/
  cleared : reportsCleared s
  /-- the sampled parameters are well formed (00_scope.md R10) -/
  cfgWf : s.cfg.wf = true
  /-- `SIZE_OVERFLOW` is never recorded (42_header_encoder.md R167) -/
  noSizeOverflow : s.err ≠ .sizeOverflow
  /-- `BAD_RESPONSE_FRAME` is recorded in strict mode only (60_exceptions.md R252) -/
  strictOnly : s.err = .badResponseFrame → s.cfg.strictResponse = true

/-- The bytes of the response checksum span received so far (44_response_parser.md R201). -/
def spanReceived (s : State) : List Byte :=
  Memory.prefixBytes s.payload s.plLen.toNat ++
    if s.cfg.respCsumSpan = .dataEtx ∧ s.size.toNat + 1 < s.idx.toNat then [s.respEtx] else []

/-- In `RESP_RX`, `RCSUM` is the fold of the span bytes received so far (44_response_parser.md R201). -/
def RcsumIsFold (s : State) : Prop :=
  s.phase = .respRx → s.rcsum = fold (spanReceived s)

/-- An uppercase ASCII hexadecimal digit (30_encoding.md R82, R83). -/
def isHexDigit (b : Byte) : Bool :=
  (decide (0x30 ≤ b.toNat) && decide (b.toNat ≤ 0x39)) || (decide (0x41 ≤ b.toNat) && decide (b.toNat ≤ 0x46))

/-- The properties of a request header (42_header_encoder.md R173), on its byte sequence. -/
structure HeaderShape (h : List Byte) : Prop where
  /-- 17 bytes -/
  length : h.length = 17
  /-- SOH first -/
  soh : h[0]? = some 0x01
  /-- ETB at index 15 -/
  etb : h[15]? = some 0x17
  /-- indices 1..14 are uppercase hexadecimal digits -/
  body : ∀ b ∈ (h.drop 1).take 14, isHexDigit b = true
  /-- the client identifier's first digit -/
  client : h[1]? = some 0x30
  /-- the master id, first digit -/
  master0 : h[13]? = some 0x30
  /-- the master id, second digit -/
  master1 : h[14]? = some 0x30
  /-- the checksum is the fold of indices 1..15 -/
  checksum : h[16]? = some (fold ((h.drop 1).take 15))
  /-- folding the span with its checksum gives 0 -/
  selfInverse : fold (h.drop 1) = 0x00

/-- While `HDR_VALID` = 1, `HDR` holds a header of that shape (10_state.md R34), and a header being sent is a read
header: its op code byte is `'0'` (45_read_transaction.md R221, R232). -/
def HeaderWhenValid (s : State) : Prop :=
  (s.hdrValid = true → HeaderShape s.hdr.toList) ∧ (s.phase = .hdrTx → s.hdr[3] = 0x30)

/-- A step that stops only where the spec says the model refuses: a RESET with ill-formed parameters
(00_scope.md R10). -/
def stepIsSafe (s : State) : Prop :=
  (∃ t, step s = .next t) ∨
    ∃ p es, s.events = .reset p :: es ∧ p.wf = false ∧ step s = .refused .illFormedConfig

end Sys2Proof.Machine

namespace Sys2Proof.Machine

/-! ## Terms the statements use -/

/-- The rows of formats HDROP and CTRL with the byte spec/opcode_table.json gives each. -/
def linkRows : List (Instr × Byte) :=
  [(.opRead, 0x30), (.opWrite, 0x38), (.soh, 0x01), (.stx, 0x02), (.etx, 0x03), (.eot, 0x04), (.enq, 0x05),
   (.ack, 0x06), (.nak, 0x15), (.etb, 0x17)]

/-- The rows of format CMD: the host commands (30_encoding.md R95). -/
def isCommand : Instr → Bool
  | .csumClear | .csumFold _ | .hdrBuildRd | .hdrBuildWr | .testConnection | .readValue => true
  | .opRead | .opWrite | .soh | .stx | .etx | .eot | .enq | .ack | .nak | .etb => false

/-- The transfer of b at s, whatever b is, and by its instruction if it is a row of the table, leaves t. -/
def transferGives (b : Byte) (s t : State) : Prop :=
  linkByte b s = .next t ∧ ∀ i, (i, b) ∈ linkRows → exec i s = .next t

/-- An ill-formed command word, by the bits of 30_encoding.md R93 and the conditions of R96. -/
def illFormedWord (v : Word) : Prop :=
  (v.toNat % 16 = 0 ∨ 7 ≤ v.toNat % 16) ∨ v.toNat / 16 % 16 ≠ 0 ∨ (v.toNat / 256 ≠ 0 ∧ v.toNat % 16 ≠ 2)

/-- The word of CSUM_FOLD b: (b << 8) | 0x0002 (43_checksum.md R193). -/
def foldWord (b : Byte) : Word := BitVec.ofNat 16 (b.toNat * 256 + 2)

/-- A host write of a legal value to a writable register other than `CMD` (10_state.md R41). -/
def legalOperandWrite (i : Byte) (v : Word) : Prop :=
  i = 0x04 ∨ (i = 0x05 ∧ v.toNat ≤ 16) ∨ i = 0x06 ∨ (0x10 ≤ i.toNat ∧ i.toNat ≤ 0x1F ∧ v.toNat ≤ 0xFF)

/-- The next event is a host write that the block ignores (10_state.md R29). -/
def ignoresWrite (s : State) : Prop :=
  ∃ i v es, s.events = .regWr i v :: es ∧
    (busy s = true ∨ (i = 0x00 ∧ illFormedWord v) ∨ (i ≠ 0x00 ∧ ¬ legalOperandWrite i v))

/-- The next event is a command that the block accepts (40_host_interface.md R129). -/
def acceptsCommand (s : State) : Prop :=
  ∃ v es, s.events = .regWr 0x00 v :: es ∧ busy s = false ∧ ¬ illFormedWord v

/-- The next event is a RESET. -/
def nextIsReset (s : State) : Prop := ∃ p es, s.events = .reset p :: es

/-- The next event is a host read. -/
def nextIsRead (s : State) : Prop := ∃ i es, s.events = .regRd i :: es

/-- The outcome with its next state, if it has one, changed by f. -/
def mapNext (f : State → State) : Host.Outcome State Fault Refusal → Host.Outcome State Fault Refusal
  | .next s => .next (f s)
  | .fault r => .fault r
  | .refused r => .refused r

/-- The state without the fields that only report on the response frame (10_state.md R38, R39). -/
def withoutReports (s : State) : State :=
  { s with respStx := 0, respEtx := 0, respCk := 0, rcsum := 0, stxOk := false, etxOk := false, csumOk := false }

/-- Two states that agree but for the bytes of `PAYLOAD` at or above `PL_LEN` (10_state.md R36). -/
def agreeButUnwritten (s t : State) : Prop :=
  { s with payload := [] } = { t with payload := [] } ∧
    ∀ k, k < s.plLen.toNat → Memory.read s.payload k = Memory.read t.payload k

/-- The events of a READ_VALUE of `n` data bytes that succeeds: the command and `n + 30` port events, in the order of
45_read_transaction.md R229. -/
def readEvents (n : Nat) : List Event :=
  [.regWr 0x00 0x0006] ++ List.replicate 3 .txAcc ++ List.replicate 3 .rx ++ List.replicate 17 .txAcc
    ++ List.replicate 1 .rx ++ List.replicate (n + 3) .rx ++ [.txAcc, .rx, .txAcc]

/-- The bytes of the response checksum span (44_response_parser.md R201). -/
def responseSpan (p : Params) (d : List Byte) (etx : Byte) : List Byte :=
  match p.respCsumSpan with
  | .data => d
  | .dataEtx => d ++ [etx]

end Sys2Proof.Machine
end

