-- ==== Sys2Proof/Certificates/Slice0/Obligations.lean ====
section
/-! DEFINITION. The statements for the provers, in the order of the spec's files. A `t` with all its fields written as
changes of `s` is also the frame: every field not named is unchanged. -/

open Sys2Proof Sys2Proof.Machine

/-! ## Encodings (30_encoding.md) -/

/-- Decoding inverts encoding, on every word of either form: no bit of an encoding is dropped, and a word decodes to an
instruction only if it is that instruction's encoding. -/
def Obligations.DecodeInvertsEncode : Prop :=
  ∀ (w : InstrWord) (i : Instr), decode w = .ok i ↔ (i.wf = true ∧ encode i = w)

/-- 30_encoding.md R96 and 40_host_interface.md R130: which command words are ill-formed, and that such a word, or any
command word while BUSY = 1, changes nothing but HOSTERR. -/
def Obligations.RejectedCommandWordOnlySetsHosterr : Prop :=
  (∀ v : Word, (∃ e, decodeCmd v = .error e) ↔ illFormedWord v) ∧
  (∀ (s : State) (v : Word) (es : List Event), s.events = .regWr 0x00 v :: es →
    busy s = true ∨ illFormedWord v → step s = .next { s with events := es, hostErr := true }) ∧
  illFormedWord 0x0000 ∧ decodeCmd 0x0102 = .ok (.csumFold 0x01) ∧ illFormedWord 0x0101

/-- Words written out from 30_encoding.md R80, R88 and R95 decode to what they stand for. -/
def Obligations.WrittenOutWordsDecode : Prop :=
  decodeCmd 0x0001 = .ok .csumClear ∧ decodeCmd 0x5A02 = .ok (.csumFold 0x5A) ∧ decodeCmd 0x0004 = .ok .hdrBuildWr ∧
  decodeCmd 0x0006 = .ok .readValue ∧ decodeLink 0x30 = .ok .opRead ∧ decodeLink 0x15 = .ok .nak ∧
  decodeLink 0x17 = .ok .etb ∧ decodeLink 0x31 = .error .dataByte ∧ decodeCmd 0x0015 = .error .rsvNotZero

/-- 30_encoding.md R83: hexchar. -/
def Obligations.HexcharIsUppercaseHex : Prop :=
  ∀ n : Nibble, (hexchar n).toNat = (if n.toNat < 10 then 0x30 + n.toNat else 0x41 + (n.toNat - 10)) ∧
    ¬ (0x61 ≤ (hexchar n).toNat ∧ (hexchar n).toNat ≤ 0x66)

/-- 30_encoding.md R84 for a value that fits: w digits, the most significant first. -/
def Obligations.HexFieldDigits : Prop :=
  ∀ w v : Nat, v < 16 ^ w → (hexField w v).length = w ∧
    ∀ k, k < w → (hexField w v)[k]? = some (hexchar (BitVec.ofNat 4 (v / 16 ^ (w - 1 - k))))

/-! ## The step and its events (40_host_interface.md) -/

/-- A step runs the decoded instruction: where the next event brings a word that decodes to i, step is exec of i at the
state from which the event, and with RX the delivered byte, has been taken; and what brings a word. That a byte on the
link is an instruction is the model's reading (log 3). -/
def Obligations.StepRunsDecodedInstruction : Prop :=
  ∀ s : State,
    (∀ w i, fetch s = some w → decode w = .ok i → step s = exec i (consume s)) ∧
    (∀ v, fetch s = some (.cmd v) ↔ ∃ es, s.events = .regWr 0x00 v :: es) ∧
    (∀ b, fetch s = some (.link b) ↔
      (∃ es, s.events = .txAcc :: es ∧ txByte s = some b) ∨
      (∃ es bs, s.events = .rx :: es ∧ rxReady s = true ∧ s.rxStream = b :: bs)) ∧
    consume s =
      { s with
        events := s.events.tail,
        rxStream := if s.events.head? = some .rx ∧ rxReady s = true then s.rxStream.tail else s.rxStream }

/-- A word placed by `withFetchWord` is the one the next step runs, for every instruction in every state; where the block
neither reads nor offers a link byte, that is at the first byte of ENQ_RX. Model's choice (log 1). -/
def Obligations.PlacedWordIsRunNext : Prop :=
  ∀ (s : State) (i : Instr),
    (∀ v, encode i = .cmd v → step (s.withFetchWord 16 v.toNat) = exec i s) ∧
    (∀ b, encode i = .link b → step (s.withFetchWord 8 b.toNat) =
      exec i (if rxReady s = true ∨ txByte s = some b then s else { s with phase := .enqRx, idx := 0 }))

/-- 40_host_interface.md R135: an event that is not enabled changes nothing of the block, and no byte is lost; and with
no event the state is held. That such an event is a step is the model's choice (logs 1, 4). -/
def Obligations.EventNotEnabledChangesNothing : Prop :=
  ∀ (s : State) (es : List Event),
    (s.events = .txAcc :: es → txValid s = false → step s = .next { s with events := es }) ∧
    (s.events = .rx :: es → rxReady s = false ∨ s.rxStream = [] → step s = .next { s with events := es }) ∧
    (s.events = [] → step s = .next s)

/-- An enabled RX or TX_ACC moves exactly one byte, whatever byte it is: decoded as an instruction or not, the step is
the transfer of that byte (the model's reading of the rows, log 3). -/
def Obligations.PortEventTransfersOneByte : Prop :=
  ∀ (s : State) (b : Byte) (es : List Event),
    (∀ bs, s.events = .rx :: es → rxReady s = true → s.rxStream = b :: bs →
      step s = linkByte b { s with events := es, rxStream := bs }) ∧
    (s.events = .txAcc :: es → txByte s = some b → step s = linkByte b { s with events := es })

/-- The outputs of 40_host_interface.md R121 and R136 as functions of the state. -/
def Obligations.PortOutputsFollowPhase : Prop :=
  ∀ s : State,
    (txValid s = true ↔ s.phase ∈ [.enqTx, .hdrTx, .ackTx, .eotTx]) ∧
    (rxReady s = true ↔ s.phase ∈ [.enqRx, .ackRx, .respRx, .eotRx]) ∧
    (busy s = true ↔ 1 ≤ s.phase.code.toNat ∧ s.phase.code.toNat ≤ 8) ∧
    (∀ k, s.phase = .enqTx → s.idx.toNat = k → k < 3 →
      [0x4E, 0x20 + s.cfg.clientId.setWidth 8, 0x05][k]? = some (txByteOut s)) ∧
    (∀ k, s.phase = .hdrTx → s.idx.toNat = k → k < 17 → s.hdr.toList[k]? = some (txByteOut s)) ∧
    (s.phase = .ackTx → txByteOut s = 0x06) ∧ (s.phase = .eotTx → txByteOut s = 0x04) ∧
    (txValid s = false → txByteOut s = 0x00) ∧ doneOut s = s.done

/-- 40_host_interface.md R123: what a host read returns at every index, with no other effect. STATUS and CONFIG are
given by the places of their bits (10_state.md R40, R21). -/
def Obligations.RegisterReadReturnsMappedValue : Prop :=
  ∀ (s : State) (i : Byte) (es : List Event), s.events = .regRd i :: es →
    let returns : Nat → Prop := fun v => step s = .next { s with events := es, regRdata := BitVec.ofNat 16 v }
    (i = 0x00 → returns 0) ∧
    (i = 0x01 → returns ((busy s).toNat + 2 * s.done.toNat + 4 * s.hostErr.toNat + 8 * s.hdrValid.toNat
      + 16 * s.err.code.toNat + 256 * s.phase.code.toNat + 4096 * s.stxOk.toNat + 8192 * s.etxOk.toNat
      + 16384 * s.csumOk.toNat)) ∧
    (i = 0x02 → returns (s.cfg.clientId.toNat + 16 * s.cfg.strictResponse.toNat
      + 32 * (if s.cfg.respCsumSpan = .dataEtx then 1 else 0))) ∧
    (i = 0x03 → returns s.csum.toNat) ∧ (i = 0x04 → returns s.size.toNat) ∧ (i = 0x05 → returns s.addrLen.toNat) ∧
    (i = 0x06 → returns s.plPtr.toNat) ∧
    (i = 0x07 → s.plLen.toNat ≤ s.plPtr.toNat → returns 0) ∧
    (i = 0x07 → s.plPtr.toNat < s.plLen.toNat → returns (Memory.read s.payload s.plPtr.toNat).toNat) ∧
    (i = 0x08 → returns s.plLen.toNat) ∧ (i = 0x09 → returns s.respStx.toNat) ∧
    (i = 0x0A → returns s.respEtx.toNat) ∧ (i = 0x0B → returns s.respCk.toNat) ∧ (i = 0x0C → returns s.rcsum.toNat) ∧
    (∀ k b, i.toNat = 0x0D + k → s.echo.toList[k]? = some b → returns b.toNat) ∧
    (∀ k b, i.toNat = 0x10 + k → s.addrChar.toList[k]? = some b → returns b.toNat) ∧
    (∀ k b, i.toNat = 0x20 + k → s.hdr.toList[k]? = some b → returns b.toNat) ∧
    (0x31 ≤ i.toNat → returns 0)

/-- 40_host_interface.md R124 to R128: what a host write does at every index. -/
def Obligations.RegisterWriteRules : Prop :=
  ∀ (s : State) (i : Byte) (v : Word) (es : List Event), s.events = .regWr i v :: es →
    let ignored : Prop := step s = .next { s with events := es, hostErr := true }
    (busy s = true → ignored) ∧
    (busy s = false →
      (∀ c, i = 0x00 → decodeCmd v = .ok c → step s = exec c { s with events := es }) ∧
      (∀ e, i = 0x00 → decodeCmd v = .error e → ignored) ∧
      (i = 0x04 → step s = .next { s with events := es, size := v }) ∧
      (i = 0x05 → v.toNat ≤ 16 → step s = .next { s with events := es, addrLen := BitVec.ofNat 5 v.toNat }) ∧
      (i = 0x05 → 16 < v.toNat → ignored) ∧
      (i = 0x06 → step s = .next { s with events := es, plPtr := v }) ∧
      (∀ k, i.toNat = 0x10 + k → k < 16 → v.toNat ≤ 0xFF → ∃ chars : Vector Byte 16,
        chars.toList = s.addrChar.toList.set k (BitVec.ofNat 8 v.toNat) ∧
        step s = .next { s with events := es, addrChar := chars }) ∧
      (∀ k, i.toNat = 0x10 + k → k < 16 → 0xFF < v.toNat → ignored) ∧
      ((1 ≤ i.toNat ∧ i.toNat ≤ 3) ∨ (7 ≤ i.toNat ∧ i.toNat ≤ 0x0F) ∨ 0x20 ≤ i.toNat → ignored))

/-- 10_state.md R42: the reserved indices. -/
def Obligations.ReservedIndexReadsZeroIgnoresWrites : Prop :=
  ∀ (s : State) (i : Byte) (es : List Event), 0x31 ≤ i.toNat →
    (s.events = .regRd i :: es → step s = .next { s with events := es, regRdata := 0x0000 }) ∧
    (∀ v, s.events = .regWr i v :: es → step s = .next { s with events := es, hostErr := true })

/-- 40_host_interface.md R129: acceptance clears HOSTERR, DONE and ERR before the command's own rule runs; at the end
DONE is 1 for a local command and 0 for a link command; HOSTERR is 0. -/
def Obligations.AcceptanceClearsResults : Prop :=
  ∀ (s : State) (i : Instr), isCommand i = true → busy s = false →
    exec i s = exec i { s with hostErr := false, done := false, err := .none } ∧
    ∃ t, exec i s = .next t ∧ t.hostErr = false ∧
      (t.done = false ↔ i = .testConnection ∨ i = .readValue) ∧
      (i = .testConnection ∨ i = .readValue → t.err = .none ∧ busy t = true)

/-- 10_state.md R29: HOSTERR after a step is set exactly if the step ignored a host write, or it was set before and the
step neither accepted a command nor was a RESET. -/
def Obligations.HosterrIsSticky : Prop :=
  State.reset.hostErr = false ∧
  ∀ s t : State, step s = .next t →
    (t.hostErr = true ↔ ignoresWrite s ∨ (s.hostErr = true ∧ ¬ acceptsCommand s ∧ ¬ nextIsReset s))

/-- The operand registers and PL_PTR change only by a host write while not busy, or RESET; the parameters only by
RESET (20_memory.md R76, 10_state.md R21). -/
def Obligations.OperandsChangeOnlyByHostWrite : Prop :=
  ∀ s t : State, step s = .next t →
    (t.cfg ≠ s.cfg → nextIsReset s) ∧
    (t.size ≠ s.size ∨ t.addrLen ≠ s.addrLen ∨ t.addrChar ≠ s.addrChar ∨ t.plPtr ≠ s.plPtr →
      nextIsReset s ∨ (busy s = false ∧ ∃ i v es, s.events = .regWr i v :: es ∧ legalOperandWrite i v))

/-- 40_host_interface.md R134 with 41_handshake.md R146, 44_response_parser.md R206 and 45_read_transaction.md R224 and
R227: RX_TIMEOUT in every phase. -/
def Obligations.RxTimeoutRaisesByPhase : Prop :=
  ∀ (s : State) (es : List Event), s.events = .rxTimeout :: es →
    (s.phase ∈ [.enqRx, .ackRx, .eotRx] →
      step s = .next { s with events := es, err := .timeout, done := true, phase := .idle }) ∧
    (s.phase = .respRx → step s = .next { s with events := es, err := .shortRead, done := true, phase := .idle }) ∧
    (s.phase ∉ [.enqRx, .ackRx, .respRx, .eotRx] → step s = .next { s with events := es })

/-! ## The checksum generator (43_checksum.md) -/

/-- The laws of the fold (43_checksum.md R191, which the spec marks "derived: from rule R190"). -/
def Obligations.FoldLaws : Prop :=
  fold [] = 0x00 ∧ (∀ b, fold [b] = b) ∧ (∀ s t, fold (s ++ t) = fold s ^^^ fold t) ∧
  (∀ s p : List Byte, s.Perm p → fold s = fold p) ∧ (∀ s, fold (s ++ s) = 0x00) ∧
  (∀ s, fold (s ++ [fold s]) = 0x00) ∧
  (∀ (s : List Byte) (j : Nat), j < 8 →
    (fold s).getLsbD j = decide (s.countP (fun b => b.getLsbD j) % 2 = 1))

/-- 43_checksum.md R192: CSUM_CLEAR. -/
def Obligations.CsumClearResult : Prop :=
  decodeCmd 0x0001 = .ok .csumClear ∧
  ∀ s : State, busy s = false →
    exec .csumClear s = .next { s with csum := 0x00, done := true, err := .none, hostErr := false }

/-- 43_checksum.md R193: CSUM_FOLD b, its word and its effect. -/
def Obligations.CsumFoldResult : Prop :=
  (∀ b : Byte, decodeCmd (foldWord b) = .ok (.csumFold b)) ∧
  ∀ (s : State) (b : Byte), busy s = false →
    exec (.csumFold b) s = .next { s with csum := s.csum ^^^ b, done := true, err := .none, hostErr := false }

/-- CSUM_CLEAR and then a CSUM_FOLD of each byte of bs, as host writes, leave fold bs in CSUM (43_checksum.md R193, a
sentence the spec marks "derived: from rules R190 and R192"). -/
def Obligations.ClearThenFoldsLeaveFold : Prop :=
  ∀ (s : State) (bs : List Byte) (es : List Event), busy s = false →
    s.events = .regWr 0x00 0x0001 :: (bs.map (fun b => Event.regWr 0x00 (foldWord b)) ++ es) →
    Host.Core.run Sys2Proof.core (bs.length + 1) s =
      .next { s with csum := fold bs, done := true, err := .none, hostErr := false, events := es }

/-- CSUM is read and written by CSUM_CLEAR, CSUM_FOLD, host reads and RESET only: every other step does the same
whatever CSUM holds, and keeps it (43_checksum.md, 10_state.md R22). -/
def Obligations.AccumulatorIsSeparate : Prop :=
  ∀ (s : State) (c : Byte),
    (∀ w, fetch s = some w → decode w ≠ .ok .csumClear ∧ ∀ b, decode w ≠ .ok (.csumFold b)) →
    ¬ nextIsReset s → ¬ nextIsRead s →
    step { s with csum := c } = mapNext (fun t => { t with csum := c }) (step s)

/-! ## The header encoder (42_header_encoder.md) -/

/-- 42_header_encoder.md R169 and 30_encoding.md R87: the encoder's checks in their order, the error of each, and the
header of the success, index by index. -/
def Obligations.HeaderEncoderChecksAndLayout : Prop :=
  ∀ (s : State) (op : Nibble),
    let str := s.addrChar.toList.take s.addrLen.toNat
    (str = [] → encodeHeader op s = .error .unknownMemoryType) ∧
    ∀ (p : Byte) (ds : List Byte), str = p :: ds →
      let value := Nat.ofDigits 8 (ds.map (fun c => c.toNat - 0x30)).reverse
      let digit : Nat → Byte := fun n => hexchar (BitVec.ofNat 4 n)
      (s.cfg.memType.lookup p = none → encodeHeader op s = .error .unknownMemoryType) ∧
      ∀ mc, s.cfg.memType.lookup p = some mc →
        (ds = [] → encodeHeader op s = .error .invalidAddress) ∧
        ((∃ c ∈ ds, c.toNat < 0x30 ∨ 0x37 < c.toNat) → encodeHeader op s = .error .invalidAddress) ∧
        (ds ≠ [] → (∀ c ∈ ds, 0x30 ≤ c.toNat ∧ c.toNat ≤ 0x37) →
          (0xFFFF < value → encodeHeader op s = .error .invalidAddress) ∧
          (value ≤ 0xFFFF →
            let span : List Byte :=
              [0x30, hexchar s.cfg.clientId, hexchar op, hexchar mc,
               digit (value / 4096), digit (value / 256), digit (value / 16), digit value,
               digit (s.size.toNat / 256 / 16), digit (s.size.toNat / 256),
               digit (s.size.toNat % 256 / 16), digit (s.size.toNat % 256), 0x30, 0x30, 0x17]
            ∃ h : Vector Byte 17, encodeHeader op s = .ok h ∧ h.toList = 0x01 :: (span ++ [fold span])))

/-- The properties of every header the encoder produces (42_header_encoder.md R173, which the spec marks "derived: from
rule R168 and 43_checksum.md rule R191"). -/
def Obligations.EncodedHeaderHasShape : Prop :=
  ∀ (s : State) (op : Nibble) (h : Vector Byte 17), encodeHeader op s = .ok h → HeaderShape h.toList

/-- The size check never fires, the largest size encodes as FF FF, and no step records SIZE_OVERFLOW
(42_header_encoder.md R166 and R167, marked "derived: from rule R166 and 10_state.md rule R23"). -/
def Obligations.SizeOverflowNeverFires : Prop :=
  (∀ size : Word, splitSize size = .ok (size.toNat / 256, size.toNat % 256) ∧ size.toNat / 256 ≤ 255) ∧
  splitSize 0xFFFF = .ok (255, 255) ∧ hexField 2 255 = [0x46, 0x46] ∧
  (∀ (s : State) (op : Nibble), encodeHeader op s ≠ .error .sizeOverflow) ∧
  (∀ s t : State, step s = .next t → t.err = .sizeOverflow → s.err = .sizeOverflow)

/-- HDR_BUILD_RD and HDR_BUILD_WR: the header of op 0x0 or 0x8 in HDR, or the encoder's error with HDR kept and
HDR_VALID = 0 (42_header_encoder.md R172); PHASE is not changed. -/
def Obligations.HdrBuildResult : Prop :=
  decodeCmd 0x0003 = .ok .hdrBuildRd ∧ decodeCmd 0x0004 = .ok .hdrBuildWr ∧
  ∀ s : State, busy s = false → ∀ i op, (i, op) ∈ [(Instr.hdrBuildRd, (0x0 : Nibble)), (Instr.hdrBuildWr, 0x8)] →
    (∀ e, encodeHeader op s = .error e →
      exec i s = .next { s with hdrValid := false, err := e, done := true, hostErr := false }) ∧
    (∀ h, encodeHeader op s = .ok h →
      exec i s = .next { s with hdr := h, hdrValid := true, err := .none, done := true, hostErr := false })

/-- Every step keeps the shape of a header marked valid, and that a header being sent is a read header
(10_state.md R34, 45_read_transaction.md R221 and R232). -/
def Obligations.StepKeepsHeaderWhenValid : Prop :=
  ∀ s t : State, HeaderWhenValid s → step s = .next t → HeaderWhenValid t

/-! ## The handshake (41_handshake.md) -/

/-- TEST_CONNECTION as accepted. -/
def Obligations.TestConnectionStartsHandshake : Prop :=
  decodeCmd 0x0005 = .ok .testConnection ∧
  ∀ s : State, busy s = false →
    exec .testConnection s = .next
      { s with
        opk := .testConnection, echo := #v[0x00, 0x00, 0x00], idx := 0, phase := .enqTx,
        hostErr := false, done := false, err := .none }

/-- 41_handshake.md R143 (and the frame of 30_encoding.md R85): TX_ACC of each enquiry byte. That exec of its row is
this transfer is the model's reading (log 3). -/
def Obligations.EnquiryByteAccepted : Prop :=
  ∀ (s : State) (b : Byte), s.phase = .enqTx →
    [0x4E, 0x20 + s.cfg.clientId.setWidth 8, 0x05][s.idx.toNat]? = some b →
    transferGives b s
      (if s.idx.toNat < 2 then { s with txStream := s.txStream ++ [b], idx := s.idx + 1 }
       else { s with txStream := s.txStream ++ [b], idx := 0, phase := .enqRx })

/-- 41_handshake.md R144 and R145, 45_read_transaction.md R221: each byte of the handshake reply, and what its third
byte completes: a rejection, the end of TEST_CONNECTION, or READ_VALUE's header or address error. Rows: log 3. -/
def Obligations.HandshakeReplyByte : Prop :=
  ∀ (s : State) (b : Byte), s.phase = .enqRx →
    (∀ h : s.idx.toNat < 2, transferGives b s { s with echo := s.echo.set s.idx.toNat b, idx := s.idx + 1 }) ∧
    (s.idx.toNat = 2 →
      let t : State := { s with echo := s.echo.set 2 b }
      let matched : Prop := [s.echo[0], s.echo[1], b] = [0x4E, 0x20 + s.cfg.clientId.setWidth 8, 0x06]
      (¬ matched → transferGives b s { t with err := .handshakeRejected, done := true, phase := .idle }) ∧
      (matched → s.opk = .testConnection → transferGives b s { t with phase := .link, done := true }) ∧
      (matched → s.opk = .readValue →
        (∀ e, encodeHeader 0x0 s = .error e → transferGives b s { t with err := e, done := true, phase := .idle }) ∧
        (∀ h, encodeHeader 0x0 s = .ok h →
          transferGives b s { t with hdr := h, hdrValid := true, idx := 0, phase := .hdrTx })))

/-- A whole TEST_CONNECTION: three enquiry bytes out, three reply bytes in, success exactly for the expected reply; the
header, payload, response and CSUM state keep their values (41_handshake.md). -/
def Obligations.TestConnectionExchange : Prop :=
  ∀ (s : State) (r0 r1 r2 : Byte) (es : List Event) (bs : List Byte), busy s = false →
    s.events = .regWr 0x00 0x0005 :: .txAcc :: .txAcc :: .txAcc :: .rx :: .rx :: .rx :: es →
    s.rxStream = r0 :: r1 :: r2 :: bs →
    let ok : Prop := r0 = 0x4E ∧ r1 = 0x20 + s.cfg.clientId.setWidth 8 ∧ r2 = 0x06
    let t : State :=
      { s with
        events := es, rxStream := bs, echo := #v[r0, r1, r2], opk := .testConnection, idx := 2, done := true,
        hostErr := false, txStream := s.txStream ++ [0x4E, 0x20 + s.cfg.clientId.setWidth 8, 0x05] }
    (ok → Host.Core.run Sys2Proof.core 7 s = .next { t with phase := .link, err := .none }) ∧
    (¬ ok → Host.Core.run Sys2Proof.core 7 s = .next { t with phase := .idle, err := .handshakeRejected })

/-! ## The response parser (44_response_parser.md) -/

/-- 44_response_parser.md R202, R203, R204: the response byte at the STX position, at a data position, at the ETX
position. That exec of a row is this transfer is the model's reading (log 3). -/
def Obligations.ResponseByteBeforeLast : Prop :=
  ∀ (s : State) (b : Byte), s.phase = .respRx →
    (s.idx.toNat = 0 → transferGives b s { s with respStx := b, idx := 1 }) ∧
    (1 ≤ s.idx.toNat → s.idx.toNat ≤ s.size.toNat →
      transferGives b s
        { s with
          payload := Memory.write s.payload (s.idx.toNat - 1) b, plLen := BitVec.ofNat 16 s.idx.toNat,
          rcsum := s.rcsum ^^^ b, idx := s.idx + 1 }) ∧
    (s.idx.toNat = s.size.toNat + 1 →
      transferGives b s
        { s with
          respEtx := b, rcsum := if s.cfg.respCsumSpan = .dataEtx then s.rcsum ^^^ b else s.rcsum,
          idx := s.idx + 1 })

/-- 44_response_parser.md R205 and R208: the checksum byte, the three flags, and in strict mode the rejection of a bad
frame. That exec of a row is this transfer is the model's reading (log 3). -/
def Obligations.ResponseLastByte : Prop :=
  ∀ (s : State) (b : Byte), s.phase = .respRx → s.idx.toNat = s.size.toNat + 2 →
    let t : State :=
      { s with
        respCk := b, stxOk := decide (s.respStx = 0x02), etxOk := decide (s.respEtx = 0x03),
        csumOk := decide (s.rcsum = b) }
    let bad : Prop := s.respStx ≠ 0x02 ∨ s.respEtx ≠ 0x03 ∨ s.rcsum ≠ b
    (s.cfg.strictResponse = true → bad →
      transferGives b s { t with err := .badResponseFrame, done := true, phase := .idle }) ∧
    (s.cfg.strictResponse = false ∨ ¬ bad → transferGives b s { t with idx := 0, phase := .ackTx })

/-- 44_response_parser.md R207: in lenient mode the STX, ETX and checksum bytes change nothing but the fields that
report them; and those fields never change what a later step does, but for what a host read returns. Both clauses are
about one step; the premise of the second is on the state before it, as a RESET may end the lenient mode. -/
def Obligations.LenientFrameBytesOnlyReported : Prop :=
  (∀ (s t : State) (b c : Byte), s.cfg.strictResponse = false → withoutReports s = withoutReports t →
    s.phase = .respRx →
    s.idx.toNat = 0 ∨ s.idx.toNat = s.size.toNat + 1 ∨ s.idx.toNat = s.size.toNat + 2 →
    ∃ s' t', linkByte b s = .next s' ∧ linkByte c t = .next t' ∧ withoutReports s' = withoutReports t') ∧
  (∀ s t : State, s.cfg.strictResponse = false → withoutReports s = withoutReports t → ¬ nextIsRead s →
    mapNext withoutReports (step s) = mapNext withoutReports (step t))

/-- Every step keeps that RCSUM is, while the response is read, the fold of the span bytes received so far
(44_response_parser.md R201). -/
def Obligations.StepKeepsRcsumFold : Prop :=
  ∀ s t : State, Inv s → RcsumIsFold s → step s = .next t → RcsumIsFold t

/-! ## The read transaction (45_read_transaction.md) -/

/-- READ_VALUE as accepted: the handshake always runs. -/
def Obligations.ReadValueStartsHandshake : Prop :=
  decodeCmd 0x0006 = .ok .readValue ∧
  ∀ s : State, busy s = false →
    exec .readValue s = .next
      { s with
        opk := .readValue, echo := #v[0x00, 0x00, 0x00], hdrValid := false, plLen := 0, respStx := 0x00,
        respEtx := 0x00, respCk := 0x00, rcsum := 0x00, stxOk := false, etxOk := false, csumOk := false, idx := 0,
        phase := .enqTx, hostErr := false, done := false, err := .none }

/-- 45_read_transaction.md R222: TX_ACC of each header byte (exec of a row: the model's reading, log 3). -/
def Obligations.HeaderByteAccepted : Prop :=
  ∀ (s : State) (b : Byte), s.phase = .hdrTx → s.hdr.toList[s.idx.toNat]? = some b →
    transferGives b s
      (if s.idx.toNat < 16 then { s with txStream := s.txStream ++ [b], idx := s.idx + 1 }
       else { s with txStream := s.txStream ++ [b], idx := 0, phase := .ackRx })

/-- 45_read_transaction.md R225 and R228: TX_ACC of the data acknowledge and of the closing EOT (exec of a row: the
model's reading, log 3). -/
def Obligations.AckAndEotAccepted : Prop :=
  ∀ s : State,
    (s.phase = .ackTx → transferGives 0x06 s { s with txStream := s.txStream ++ [0x06], phase := .eotRx }) ∧
    (s.phase = .eotTx →
      transferGives 0x04 s { s with txStream := s.txStream ++ [0x04], phase := .closed, done := true })

/-- 45_read_transaction.md R223 and R226: the reply to the header and the partner's end of transaction (exec of a row:
the model's reading, log 3). -/
def Obligations.ReplyAndEotReceived : Prop :=
  ∀ (s : State) (b : Byte),
    (s.phase = .ackRx → b = 0x06 → transferGives b s { s with idx := 0, phase := .respRx }) ∧
    (s.phase = .ackRx → b ≠ 0x06 →
      transferGives b s { s with err := .requestRejected, done := true, phase := .idle }) ∧
    (s.phase = .eotRx → b = 0x04 → transferGives b s { s with phase := .eotTx }) ∧
    (s.phase = .eotRx → b ≠ 0x04 →
      transferGives b s { s with err := .transactionNotClosed, done := true, phase := .idle })

/-- The ten rows of formats HDROP and CTRL in their places in the frames (30_encoding.md R80, R85, R87, R88, R90, R91):
each completes with the effect of that place. The model's reading of the rows (log 3). -/
def Obligations.LinkRowsInTheirPlaces : Prop :=
  ∀ s : State,
    let sent : State := { s with txStream := s.txStream ++ [txByteOut s], idx := s.idx + 1 }
    (s.phase = .hdrTx → s.idx = 0 → s.hdr[0] = 0x01 → exec .soh s = .next sent) ∧
    (s.phase = .hdrTx → s.idx = 3 → s.hdr[3] = 0x30 → exec .opRead s = .next sent) ∧
    (s.phase = .hdrTx → s.idx = 15 → s.hdr[15] = 0x17 → exec .etb s = .next sent) ∧
    (s.phase = .enqTx → s.idx = 2 →
      exec .enq s = .next { s with txStream := s.txStream ++ [0x05], idx := 0, phase := .enqRx }) ∧
    (s.phase = .ackRx → exec .ack s = .next { s with idx := 0, phase := .respRx }) ∧
    (s.phase = .ackRx → exec .nak s = .next { s with err := .requestRejected, done := true, phase := .idle }) ∧
    (s.phase = .respRx → s.idx = 0 → exec .stx s = .next { s with respStx := 0x02, idx := 1 }) ∧
    (s.phase = .respRx → 1 ≤ s.idx.toNat → s.idx.toNat ≤ s.size.toNat →
      ∀ i b, (i, b) ∈ linkRows → exec i s = .next
        { s with
          payload := Memory.write s.payload (s.idx.toNat - 1) b, plLen := BitVec.ofNat 16 s.idx.toNat,
          rcsum := s.rcsum ^^^ b, idx := s.idx + 1 }) ∧
    (s.phase = .respRx → s.idx.toNat = s.size.toNat + 1 → exec .etx s = .next
      { s with
        respEtx := 0x03, rcsum := if s.cfg.respCsumSpan = .dataEtx then s.rcsum ^^^ 0x03 else s.rcsum,
        idx := s.idx + 1 }) ∧
    (s.phase = .ackTx → exec .ack s = .next { s with txStream := s.txStream ++ [0x06], phase := .eotRx }) ∧
    (s.phase = .eotRx → exec .eot s = .next { s with phase := .eotTx }) ∧
    (s.phase = .eotTx → exec .eot s = .next
      { s with txStream := s.txStream ++ [0x04], phase := .closed, done := true })

/-- A byte that the block neither reads nor offers is not transferred: its instruction leaves the state as it is. Model's
reading (log 3). -/
def Obligations.NoTransferLeavesState : Prop :=
  ∀ (s : State) (b : Byte), rxReady s = false → txByte s ≠ some b → transferGives b s s

/-- The whole of a successful READ_VALUE, for every size and all data (45_read_transaction.md R230, R209, and R229, which
the spec marks "derived: from rules R220 to R228 and 41_handshake.md rules R143 to R145"). In lenient mode STX, ETX and
checksum may be any bytes; in strict mode they are the right ones. -/
def Obligations.SuccessfulReadExchange : Prop :=
  ∀ (s : State) (h : Vector Byte 17) (stx etx ck : Byte) (d : List Byte) (es : List Event) (bs : List Byte),
    busy s = false → encodeHeader 0x0 s = .ok h → d.length = s.size.toNat →
    (s.cfg.strictResponse = true → stx = 0x02 ∧ etx = 0x03 ∧ ck = fold (responseSpan s.cfg d etx)) →
    s.events = readEvents s.size.toNat ++ es →
    s.rxStream =
      [0x4E, 0x20 + s.cfg.clientId.setWidth 8, 0x06] ++ [0x06] ++ ([stx] ++ d ++ [etx, ck]) ++ [0x04] ++ bs →
    ∃ t, Host.Core.run Sys2Proof.core (s.size.toNat + 31) s = .next t ∧
      t.phase = .closed ∧ t.done = true ∧ t.err = .none ∧ t.hostErr = false ∧
      t.plLen = s.size ∧ Memory.prefixBytes t.payload s.size.toNat = d ∧
      t.txStream = s.txStream ++ [0x4E, 0x20 + s.cfg.clientId.setWidth 8, 0x05] ++ h.toList ++ [0x06] ++ [0x04] ∧
      t.rxStream = bs ∧ t.events = es ∧ t.hdr = h ∧ t.hdrValid = true ∧ t.csum = s.csum ∧
      t.respStx = stx ∧ t.respEtx = etx ∧ t.respCk = ck ∧ t.rcsum = fold (responseSpan s.cfg d etx) ∧
      t.stxOk = decide (stx = 0x02) ∧ t.etxOk = decide (etx = 0x03) ∧ t.csumOk = decide (t.rcsum = ck)

/-- 45_read_transaction.md R231: READ_VALUE keeps nothing of an earlier command: two states that agree on the operand
registers, the parameters and what READ_VALUE does not touch leave the same state. -/
def Obligations.ReadValueForgetsEarlierCommand : Prop :=
  ∀ s t : State, busy s = false → busy t = false →
    s.csum = t.csum → s.size = t.size → s.addrLen = t.addrLen → s.addrChar = t.addrChar → s.plPtr = t.plPtr →
    s.hdr = t.hdr → s.payload = t.payload → s.cfg = t.cfg → s.txStream = t.txStream → s.rxStream = t.rxStream →
    s.regRdata = t.regRdata → s.events = t.events → exec .readValue s = exec .readValue t

/-! ## Errors, reset and the whole machine (60_exceptions.md, 70_reset_and_hazards.md, 10_state.md, 20_memory.md) -/

/-- 60_exceptions.md R253: the effect of raise. -/
def Obligations.RaiseAborts : Prop :=
  ∀ (e : ErrCode) (s : State),
    (1 ≤ s.phase.code.toNat → s.phase.code.toNat ≤ 8 →
      raise e s = { s with err := e, done := true, phase := .idle } ∧
      txValid (raise e s) = false ∧ rxReady (raise e s) = false) ∧
    (s.phase.code.toNat = 0 ∨ 8 < s.phase.code.toNat → raise e s = { s with err := e, done := true })

/-- How a link command ends: by RESET, with success in LINK or CLOSED, or by an abort that sends and reads nothing
more (10_state.md R27, 40_host_interface.md R137, 60_exceptions.md). -/
def Obligations.LinkCommandEndsCleanly : Prop :=
  ∀ s t : State, Inv s → busy s = true → step s = .next t → busy t = false →
    nextIsReset s ∨
    (t.done = true ∧ t.err = .none ∧
      ((t.phase = .link ∧ s.opk = .testConnection) ∨ (t.phase = .closed ∧ s.opk = .readValue))) ∨
    (t.done = true ∧ t.err ≠ .none ∧ t.phase = .idle ∧ t.txStream = s.txStream ∧ txValid t = false ∧
      rxReady t = false)

/-- 70_reset_and_hazards.md R289 and R290: over any number of steps, a phase that sends is left only by TX_ACC or RESET,
a phase that reads only by RX, RX_TIMEOUT or RESET; until then BUSY stays 1. -/
def Obligations.PortPhaseWaitsForItsEvents : Prop :=
  ∀ (n : Nat) (s t : State), Host.Core.run Sys2Proof.core n s = .next t →
    (∀ p, Event.reset p ∉ s.events.take n) →
    (s.phase ∈ [.enqTx, .hdrTx, .ackTx, .eotTx] → Event.txAcc ∉ s.events.take n →
      t.phase = s.phase ∧ busy t = true) ∧
    (s.phase ∈ [.enqRx, .ackRx, .respRx, .eotRx] → Event.rx ∉ s.events.take n → Event.rxTimeout ∉ s.events.take n →
      t.phase = s.phase ∧ busy t = true)

/-- 20_memory.md R72 and R73: a step adds to the TX stream only the byte offered, by TX_ACC, and takes from the RX stream
only its next byte, by RX while rx_ready = 1; nothing is lost, repeated or reordered. The streams as fields of the state
are the model's (log 2). -/
def Obligations.StreamsMoveOneByteInOrder : Prop :=
  ∀ s t : State, step s = .next t →
    (t.txStream = s.txStream ∨
      ∃ b es, s.events = .txAcc :: es ∧ txByte s = some b ∧ t.txStream = s.txStream ++ [b]) ∧
    (∀ b es, s.events = .txAcc :: es → txByte s = some b → t.txStream = s.txStream ++ [b]) ∧
    (t.rxStream = s.rxStream ∨
      ∃ b es, s.events = .rx :: es ∧ rxReady s = true ∧ s.rxStream = b :: t.rxStream) ∧
    (∀ b bs es, s.events = .rx :: es → rxReady s = true → s.rxStream = b :: bs → t.rxStream = bs)

/-- 70_reset_and_hazards.md R280: the RESET event in any state. The parameters of 00_scope.md R10 are sampled, ill-formed
ones refused (the condition on 'V' and distinct keys: log 5). Model's choices: PAYLOAD, unspecified after reset, holds
0x00 in every byte (log 7); the streams and the read data output are kept (logs 2, 9). -/
def Obligations.ResetEventClearsAndSamples : Prop :=
  ∀ (s : State) (p : RawParams) (es : List Event), s.events = .reset p :: es →
    let legal : Prop := p.clientId ≠ 0 ∧ (∀ e ∈ p.memType, e.2 ≤ 15) ∧ (p.memType.map Prod.fst).Nodup ∧
      p.memType.lookup 0x56 = some 1
    (legal → ∃ t : State, step s = .next t ∧
      t = { csum := 0, size := 0, addrLen := 0, addrChar := Vector.replicate 16 0, plPtr := 0, phase := .idle,
            opk := .testConnection, idx := 0, done := false, err := .none, hostErr := false,
            hdr := Vector.replicate 17 0, hdrValid := false, echo := Vector.replicate 3 0, payload := [], plLen := 0,
            respStx := 0, respEtx := 0, respCk := 0, rcsum := 0, stxOk := false, etxOk := false, csumOk := false,
            cfg := { clientId := p.clientId, memType := p.memType.map (fun e => (e.1, BitVec.ofNat 4 e.2)),
                     strictResponse := p.strictResponse, respCsumSpan := p.respCsumSpan },
            txStream := s.txStream, rxStream := s.rxStream, regRdata := s.regRdata, events := es } ∧
      busy t = false ∧ txValid t = false ∧ rxReady t = false) ∧
    (¬ legal → step s = .refused .illFormedConfig)

/-- What the machine holds right after reset (10_state.md R45); PAYLOAD is unobservable. That CONFIG reads 0x0021 rests on
the default parameters of 00_scope.md R10, which State.reset holds by the model's choice (log 6). -/
def Obligations.ResetValues : Prop :=
  let s := State.reset
  s.csum = 0x00 ∧ s.size = 0x0000 ∧ s.addrLen = 0 ∧ s.addrChar.toList = List.replicate 16 0x00 ∧ s.plPtr = 0x0000 ∧
  s.phase.code = 0 ∧ s.opk = .testConnection ∧ s.idx = 0 ∧ s.done = false ∧ s.err.code = 0 ∧ s.hostErr = false ∧
  s.hdr.toList = List.replicate 17 0x00 ∧ s.hdrValid = false ∧ s.echo.toList = List.replicate 3 0x00 ∧
  (∀ p, regValue { s with plPtr := p } 0x07 = 0x0000) ∧ s.plLen = 0 ∧
  s.respStx = 0x00 ∧ s.respEtx = 0x00 ∧ s.respCk = 0x00 ∧
  s.rcsum = 0x00 ∧ s.stxOk = false ∧ s.etxOk = false ∧ s.csumOk = false ∧
  regValue s 0x01 = 0x0000 ∧ regValue s 0x02 = 0x0021

/-- The bytes of PAYLOAD at or above PL_LEN, which the spec leaves unspecified, are never observable (10_state.md R36): two
states that differ only in them still do after the same step, so whatever they hold shows in no register read, no output
and no later step. The value that the model gives them (log 7) matters to nothing else. -/
def Obligations.UnwrittenPayloadIsUnobservable : Prop :=
  ∀ s t s' : State, Inv s → agreeButUnwritten s t → step s = .next s' →
    ∃ t', step t = .next t' ∧ agreeButUnwritten s' t'

/-- The invariants hold at reset. -/
def Obligations.InvariantsHoldAtReset : Prop :=
  Inv State.reset ∧ RcsumIsFold State.reset ∧ HeaderWhenValid State.reset

/-- Every step keeps the invariant of the machine. -/
def Obligations.StepKeepsMachineInvariant : Prop :=
  ∀ s t : State, Inv s → step s = .next t → Inv t

/-- From a state with the invariant no step stops, but for a RESET with ill-formed parameters. -/
def Obligations.StepFromInvariantIsSafe : Prop :=
  ∀ s : State, Inv s → stepIsSafe s
end

