-- ==== Sys2Proof/Laws/Memory.lean ====
section
/-! SUPPORT. The laws of the payload buffer: a read after a write, the canonical form that every write keeps, and that
equal contents are equal data. -/

namespace Sys2Proof.Machine

@[simp] theorem Memory.read_nil (k : Nat) : Memory.read [] k = Memory.unlisted := rfl

@[simp] theorem Memory.read_cons (a : Nat) (b : Byte) (m : Memory) (k : Nat) :
    Memory.read ((a, b) :: m) k = if k = a then b else Memory.read m k := rfl

@[simp] theorem Memory.prefixBytes_zero (m : Memory) : Memory.prefixBytes m 0 = [] := rfl

@[simp] theorem Memory.prefixBytes_succ (m : Memory) (n : Nat) :
    Memory.prefixBytes m (n + 1) = Memory.prefixBytes m n ++ [Memory.read m n] := rfl

@[simp] theorem Memory.prefixBytes_length (m : Memory) (n : Nat) : (Memory.prefixBytes m n).length = n := by
  induction n with
  | zero => rfl
  | succ n ih => simp [ih]

/-! ## A read after a write -/

/-- A read after an entry is put in place. -/
theorem Memory.read_insert (m : Memory) (k j : Nat) (v : Byte) :
    Memory.read (Memory.insert m k v) j = if j = k then v else Memory.read m j := by
  induction m with
  | nil => rfl
  | cons c m ih =>
    obtain ⟨a, b⟩ := c
    unfold Memory.insert
    split
    · rfl
    · split
      · rename_i h
        subst h
        by_cases hj : j = k <;> simp [hj]
      · rename_i h
        by_cases hj : j = a
        · have hk : j ≠ k := fun e => h (e ▸ hj)
          rw [Memory.read_cons, if_pos hj, if_neg hk, Memory.read_cons, if_pos hj]
        · rw [Memory.read_cons, if_neg hj, ih, Memory.read_cons, if_neg hj]

/-- A read after an index is erased. -/
theorem Memory.read_erase (m : Memory) (k j : Nat) :
    Memory.read (Memory.erase m k) j = if j = k then Memory.unlisted else Memory.read m j := by
  induction m with
  | nil => simp [Memory.erase]
  | cons c m ih =>
    obtain ⟨a, b⟩ := c
    by_cases ha : a = k
    · have he : Memory.erase ((a, b) :: m) k = Memory.erase m k := List.filter_cons_of_neg (by simp [ha])
      rw [he, ih, Memory.read_cons]
      by_cases hj : j = k
      · simp [hj]
      · have hja : j ≠ a := fun e => hj (e.trans ha)
        rw [if_neg hj, if_neg hj, if_neg hja]
    · have he : Memory.erase ((a, b) :: m) k = (a, b) :: Memory.erase m k := List.filter_cons_of_pos (by simp [ha])
      rw [he, Memory.read_cons, Memory.read_cons, ih]
      by_cases hj : j = a
      · simp [hj, ha]
      · simp [hj]

/-- A read after a write gives the byte written at its index and what was there at every other. -/
theorem Memory.read_write (m : Memory) (k j : Nat) (v : Byte) :
    Memory.read (Memory.write m k v) j = if j = k then v else Memory.read m j := by
  unfold Memory.write
  split
  · rename_i h; rw [Memory.read_erase, h]
  · exact Memory.read_insert m k j v

/-- Bytes below a written index are kept. -/
theorem Memory.prefixBytes_write_of_le (m : Memory) {k n : Nat} (v : Byte) (h : n ≤ k) :
    Memory.prefixBytes (Memory.write m k v) n = Memory.prefixBytes m n := by
  induction n with
  | zero => rfl
  | succ n ih =>
    have hne : n ≠ k := by omega
    rw [Memory.prefixBytes_succ, Memory.prefixBytes_succ, ih (by omega), Memory.read_write, if_neg hne]

/-- The prefix grows by the byte written right after it. -/
theorem Memory.prefixBytes_write (m : Memory) (n : Nat) (v : Byte) :
    Memory.prefixBytes (Memory.write m n v) (n + 1) = Memory.prefixBytes m n ++ [v] := by
  rw [Memory.prefixBytes_succ, Memory.prefixBytes_write_of_le m v (Nat.le_refl n), Memory.read_write, if_pos rfl]

/-! ## The canonical form -/

/-- What a buffer lists after an entry is put in place. -/
theorem Memory.mem_insert {m : Memory} {k : Nat} {v : Byte} {c : Host.Cell}
    (h : c ∈ Memory.insert m k v) : c = (k, v) ∨ c ∈ m := by
  induction m with
  | nil => exact .inl (List.mem_singleton.mp h)
  | cons d m ih =>
    obtain ⟨a, b⟩ := d
    unfold Memory.insert at h
    split at h
    · exact List.mem_cons.mp h
    · split at h
      · exact (List.mem_cons.mp h).imp_right (List.mem_cons_of_mem _)
      · rcases List.mem_cons.mp h with h | h
        · exact .inr (h ▸ List.mem_cons_self)
        · exact (ih h).imp_right (List.mem_cons_of_mem _)

/-- Putting an entry in place keeps the indices rising. -/
theorem Memory.insert_rising {m : Memory} (k : Nat) (v : Byte) (hm : m.Pairwise (fun c d => c.1 < d.1)) :
    (Memory.insert m k v).Pairwise (fun c d => c.1 < d.1) := by
  induction m with
  | nil => exact List.pairwise_singleton _ _
  | cons d m ih =>
    obtain ⟨a, b⟩ := d
    have hd := List.pairwise_cons.mp hm
    unfold Memory.insert
    split
    · rename_i hlt
      refine List.pairwise_cons.mpr ⟨fun c hc => ?_, hm⟩
      rcases List.mem_cons.mp hc with rfl | hc
      · exact hlt
      · exact Nat.lt_trans hlt (hd.1 c hc)
    · split
      · rename_i h
        subst h
        exact List.pairwise_cons.mpr ⟨hd.1, hd.2⟩
      · rename_i h1 h2
        refine List.pairwise_cons.mpr ⟨fun c hc => ?_, ih hd.2⟩
        rcases Memory.mem_insert hc with rfl | hc
        · exact Nat.lt_of_le_of_ne (Nat.le_of_not_lt h1) (fun e => h2 e.symm)
        · exact hd.1 c hc

/-- A write inside `PAYLOAD[0..65534]` keeps the canonical form. -/
theorem Memory.write_wf {m : Memory} {k : Nat} (v : Byte) (hm : Memory.wf m) (hk : k < 65535) :
    Memory.wf (Memory.write m k v) := by
  unfold Memory.write
  split
  · exact ⟨hm.1.filter _, fun c hc => hm.2 c (List.mem_of_mem_filter hc)⟩
  · rename_i hv
    refine ⟨Memory.insert_rising k v hm.1, fun c hc => ?_⟩
    rcases Memory.mem_insert hc with rfl | hc
    · exact ⟨hk, hv⟩
    · exact hm.2 c hc

/-- The payload at reset has the canonical form. -/
theorem reset_payload_wf : Memory.wf State.reset.payload := by decide

/-- An index below every listed one is unlisted. -/
theorem Memory.read_of_lt {m : Memory} {k : Nat} (h : ∀ c ∈ m, k < c.1) : Memory.read m k = Memory.unlisted := by
  induction m with
  | nil => rfl
  | cons c m ih =>
    obtain ⟨a, b⟩ := c
    have ha : k < a := h (a, b) List.mem_cons_self
    rw [Memory.read_cons, if_neg (Nat.ne_of_lt ha), ih (fun c hc => h c (List.mem_cons_of_mem _ hc))]

/-- Buffers in the canonical form that read alike everywhere are the same data. -/
theorem Memory.ext_of_wf {m n : Memory} (hm : Memory.wf m) (hn : Memory.wf n)
    (h : ∀ k, Memory.read m k = Memory.read n k) : m = n := by
  induction m generalizing n with
  | nil =>
    cases n with
    | nil => rfl
    | cons d n =>
      obtain ⟨a, b⟩ := d
      exact absurd ((h a).symm.trans rfl) (by simpa using (hn.2 (a, b) List.mem_cons_self).2)
  | cons c m ih =>
    obtain ⟨a, b⟩ := c
    have hb := (hm.2 (a, b) List.mem_cons_self).2
    have hmt := List.pairwise_cons.mp hm.1
    cases n with
    | nil => exact absurd (h a) (by simpa using hb)
    | cons d n =>
      obtain ⟨a', b'⟩ := d
      have hb' := (hn.2 (a', b') List.mem_cons_self).2
      have hnt := List.pairwise_cons.mp hn.1
      have below : ∀ {x : Nat} {y : Byte} {l : Memory} {j : Nat}, j < x → (∀ c ∈ l, x < c.1) →
          Memory.read ((x, y) :: l) j = Memory.unlisted := by
        intro x y l j hj hl
        refine Memory.read_of_lt fun c hc => ?_
        rcases List.mem_cons.mp hc with rfl | hc
        · exact hj
        · exact Nat.lt_trans hj (hl c hc)
      have haa : a = a' := by
        rcases Nat.lt_trichotomy a a' with hlt | heq | hlt
        · exact absurd (((h a).trans (below hlt hnt.1))) (by simpa using hb)
        · exact heq
        · exact absurd (((h a').symm.trans (below hlt hmt.1))) (by simpa using hb')
      subst haa
      have hbb : b = b' := by simpa using h a
      subst hbb
      have tails : m = n := by
        refine ih ⟨hmt.2, fun c hc => hm.2 c (List.mem_cons_of_mem _ hc)⟩
          ⟨hnt.2, fun c hc => hn.2 c (List.mem_cons_of_mem _ hc)⟩ fun k => ?_
        by_cases hk : k = a
        · subst hk
          rw [Memory.read_of_lt hmt.1, Memory.read_of_lt hnt.1]
        · simpa [hk] using h k
      rw [tails]

end Sys2Proof.Machine
end

