-- ==== Sys2Proof/Laws/State.lean ====
section
/-! SUPPORT. For each operation that updates the state, one lemma per field: what the operation leaves in it. -/

namespace Sys2Proof.Machine

/-! ## refuseWrite -/

@[simp] theorem refuseWrite_csum (s : State) : (refuseWrite s).csum = s.csum := rfl
@[simp] theorem refuseWrite_size (s : State) : (refuseWrite s).size = s.size := rfl
@[simp] theorem refuseWrite_addrLen (s : State) : (refuseWrite s).addrLen = s.addrLen := rfl
@[simp] theorem refuseWrite_addrChar (s : State) : (refuseWrite s).addrChar = s.addrChar := rfl
@[simp] theorem refuseWrite_plPtr (s : State) : (refuseWrite s).plPtr = s.plPtr := rfl
@[simp] theorem refuseWrite_phase (s : State) : (refuseWrite s).phase = s.phase := rfl
@[simp] theorem refuseWrite_opk (s : State) : (refuseWrite s).opk = s.opk := rfl
@[simp] theorem refuseWrite_idx (s : State) : (refuseWrite s).idx = s.idx := rfl
@[simp] theorem refuseWrite_done (s : State) : (refuseWrite s).done = s.done := rfl
@[simp] theorem refuseWrite_err (s : State) : (refuseWrite s).err = s.err := rfl
@[simp] theorem refuseWrite_hostErr (s : State) : (refuseWrite s).hostErr = true := rfl
@[simp] theorem refuseWrite_hdr (s : State) : (refuseWrite s).hdr = s.hdr := rfl
@[simp] theorem refuseWrite_hdrValid (s : State) : (refuseWrite s).hdrValid = s.hdrValid := rfl
@[simp] theorem refuseWrite_echo (s : State) : (refuseWrite s).echo = s.echo := rfl
@[simp] theorem refuseWrite_payload (s : State) : (refuseWrite s).payload = s.payload := rfl
@[simp] theorem refuseWrite_plLen (s : State) : (refuseWrite s).plLen = s.plLen := rfl
@[simp] theorem refuseWrite_respStx (s : State) : (refuseWrite s).respStx = s.respStx := rfl
@[simp] theorem refuseWrite_respEtx (s : State) : (refuseWrite s).respEtx = s.respEtx := rfl
@[simp] theorem refuseWrite_respCk (s : State) : (refuseWrite s).respCk = s.respCk := rfl
@[simp] theorem refuseWrite_rcsum (s : State) : (refuseWrite s).rcsum = s.rcsum := rfl
@[simp] theorem refuseWrite_stxOk (s : State) : (refuseWrite s).stxOk = s.stxOk := rfl
@[simp] theorem refuseWrite_etxOk (s : State) : (refuseWrite s).etxOk = s.etxOk := rfl
@[simp] theorem refuseWrite_csumOk (s : State) : (refuseWrite s).csumOk = s.csumOk := rfl
@[simp] theorem refuseWrite_cfg (s : State) : (refuseWrite s).cfg = s.cfg := rfl
@[simp] theorem refuseWrite_txStream (s : State) : (refuseWrite s).txStream = s.txStream := rfl
@[simp] theorem refuseWrite_rxStream (s : State) : (refuseWrite s).rxStream = s.rxStream := rfl
@[simp] theorem refuseWrite_regRdata (s : State) : (refuseWrite s).regRdata = s.regRdata := rfl
@[simp] theorem refuseWrite_events (s : State) : (refuseWrite s).events = s.events := rfl

/-! ## accept -/

@[simp] theorem accept_csum (s : State) : (accept s).csum = s.csum := rfl
@[simp] theorem accept_size (s : State) : (accept s).size = s.size := rfl
@[simp] theorem accept_addrLen (s : State) : (accept s).addrLen = s.addrLen := rfl
@[simp] theorem accept_addrChar (s : State) : (accept s).addrChar = s.addrChar := rfl
@[simp] theorem accept_plPtr (s : State) : (accept s).plPtr = s.plPtr := rfl
@[simp] theorem accept_phase (s : State) : (accept s).phase = s.phase := rfl
@[simp] theorem accept_opk (s : State) : (accept s).opk = s.opk := rfl
@[simp] theorem accept_idx (s : State) : (accept s).idx = s.idx := rfl
@[simp] theorem accept_done (s : State) : (accept s).done = false := rfl
@[simp] theorem accept_err (s : State) : (accept s).err = .none := rfl
@[simp] theorem accept_hostErr (s : State) : (accept s).hostErr = false := rfl
@[simp] theorem accept_hdr (s : State) : (accept s).hdr = s.hdr := rfl
@[simp] theorem accept_hdrValid (s : State) : (accept s).hdrValid = s.hdrValid := rfl
@[simp] theorem accept_echo (s : State) : (accept s).echo = s.echo := rfl
@[simp] theorem accept_payload (s : State) : (accept s).payload = s.payload := rfl
@[simp] theorem accept_plLen (s : State) : (accept s).plLen = s.plLen := rfl
@[simp] theorem accept_respStx (s : State) : (accept s).respStx = s.respStx := rfl
@[simp] theorem accept_respEtx (s : State) : (accept s).respEtx = s.respEtx := rfl
@[simp] theorem accept_respCk (s : State) : (accept s).respCk = s.respCk := rfl
@[simp] theorem accept_rcsum (s : State) : (accept s).rcsum = s.rcsum := rfl
@[simp] theorem accept_stxOk (s : State) : (accept s).stxOk = s.stxOk := rfl
@[simp] theorem accept_etxOk (s : State) : (accept s).etxOk = s.etxOk := rfl
@[simp] theorem accept_csumOk (s : State) : (accept s).csumOk = s.csumOk := rfl
@[simp] theorem accept_cfg (s : State) : (accept s).cfg = s.cfg := rfl
@[simp] theorem accept_txStream (s : State) : (accept s).txStream = s.txStream := rfl
@[simp] theorem accept_rxStream (s : State) : (accept s).rxStream = s.rxStream := rfl
@[simp] theorem accept_regRdata (s : State) : (accept s).regRdata = s.regRdata := rfl
@[simp] theorem accept_events (s : State) : (accept s).events = s.events := rfl

/-! ## raise -/

@[simp] theorem raise_csum (e : ErrCode) (s : State) : (raise e s).csum = s.csum := rfl
@[simp] theorem raise_size (e : ErrCode) (s : State) : (raise e s).size = s.size := rfl
@[simp] theorem raise_addrLen (e : ErrCode) (s : State) : (raise e s).addrLen = s.addrLen := rfl
@[simp] theorem raise_addrChar (e : ErrCode) (s : State) : (raise e s).addrChar = s.addrChar := rfl
@[simp] theorem raise_plPtr (e : ErrCode) (s : State) : (raise e s).plPtr = s.plPtr := rfl
@[simp] theorem raise_phase (e : ErrCode) (s : State) : (raise e s).phase = if busy s then .idle else s.phase := rfl
@[simp] theorem raise_opk (e : ErrCode) (s : State) : (raise e s).opk = s.opk := rfl
@[simp] theorem raise_idx (e : ErrCode) (s : State) : (raise e s).idx = s.idx := rfl
@[simp] theorem raise_done (e : ErrCode) (s : State) : (raise e s).done = true := rfl
@[simp] theorem raise_err (e : ErrCode) (s : State) : (raise e s).err = e := rfl
@[simp] theorem raise_hostErr (e : ErrCode) (s : State) : (raise e s).hostErr = s.hostErr := rfl
@[simp] theorem raise_hdr (e : ErrCode) (s : State) : (raise e s).hdr = s.hdr := rfl
@[simp] theorem raise_hdrValid (e : ErrCode) (s : State) : (raise e s).hdrValid = s.hdrValid := rfl
@[simp] theorem raise_echo (e : ErrCode) (s : State) : (raise e s).echo = s.echo := rfl
@[simp] theorem raise_payload (e : ErrCode) (s : State) : (raise e s).payload = s.payload := rfl
@[simp] theorem raise_plLen (e : ErrCode) (s : State) : (raise e s).plLen = s.plLen := rfl
@[simp] theorem raise_respStx (e : ErrCode) (s : State) : (raise e s).respStx = s.respStx := rfl
@[simp] theorem raise_respEtx (e : ErrCode) (s : State) : (raise e s).respEtx = s.respEtx := rfl
@[simp] theorem raise_respCk (e : ErrCode) (s : State) : (raise e s).respCk = s.respCk := rfl
@[simp] theorem raise_rcsum (e : ErrCode) (s : State) : (raise e s).rcsum = s.rcsum := rfl
@[simp] theorem raise_stxOk (e : ErrCode) (s : State) : (raise e s).stxOk = s.stxOk := rfl
@[simp] theorem raise_etxOk (e : ErrCode) (s : State) : (raise e s).etxOk = s.etxOk := rfl
@[simp] theorem raise_csumOk (e : ErrCode) (s : State) : (raise e s).csumOk = s.csumOk := rfl
@[simp] theorem raise_cfg (e : ErrCode) (s : State) : (raise e s).cfg = s.cfg := rfl
@[simp] theorem raise_txStream (e : ErrCode) (s : State) : (raise e s).txStream = s.txStream := rfl
@[simp] theorem raise_rxStream (e : ErrCode) (s : State) : (raise e s).rxStream = s.rxStream := rfl
@[simp] theorem raise_regRdata (e : ErrCode) (s : State) : (raise e s).regRdata = s.regRdata := rfl
@[simp] theorem raise_events (e : ErrCode) (s : State) : (raise e s).events = s.events := rfl

/-! ## resetWith -/

@[simp] theorem resetWith_csum (c : Params) (s : State) : (resetWith c s).csum = State.reset.csum := rfl
@[simp] theorem resetWith_size (c : Params) (s : State) : (resetWith c s).size = State.reset.size := rfl
@[simp] theorem resetWith_addrLen (c : Params) (s : State) : (resetWith c s).addrLen = State.reset.addrLen := rfl
@[simp] theorem resetWith_addrChar (c : Params) (s : State) : (resetWith c s).addrChar = State.reset.addrChar := rfl
@[simp] theorem resetWith_plPtr (c : Params) (s : State) : (resetWith c s).plPtr = State.reset.plPtr := rfl
@[simp] theorem resetWith_phase (c : Params) (s : State) : (resetWith c s).phase = State.reset.phase := rfl
@[simp] theorem resetWith_opk (c : Params) (s : State) : (resetWith c s).opk = State.reset.opk := rfl
@[simp] theorem resetWith_idx (c : Params) (s : State) : (resetWith c s).idx = State.reset.idx := rfl
@[simp] theorem resetWith_done (c : Params) (s : State) : (resetWith c s).done = State.reset.done := rfl
@[simp] theorem resetWith_err (c : Params) (s : State) : (resetWith c s).err = State.reset.err := rfl
@[simp] theorem resetWith_hostErr (c : Params) (s : State) : (resetWith c s).hostErr = State.reset.hostErr := rfl
@[simp] theorem resetWith_hdr (c : Params) (s : State) : (resetWith c s).hdr = State.reset.hdr := rfl
@[simp] theorem resetWith_hdrValid (c : Params) (s : State) : (resetWith c s).hdrValid = State.reset.hdrValid := rfl
@[simp] theorem resetWith_echo (c : Params) (s : State) : (resetWith c s).echo = State.reset.echo := rfl
@[simp] theorem resetWith_payload (c : Params) (s : State) : (resetWith c s).payload = State.reset.payload := rfl
@[simp] theorem resetWith_plLen (c : Params) (s : State) : (resetWith c s).plLen = State.reset.plLen := rfl
@[simp] theorem resetWith_respStx (c : Params) (s : State) : (resetWith c s).respStx = State.reset.respStx := rfl
@[simp] theorem resetWith_respEtx (c : Params) (s : State) : (resetWith c s).respEtx = State.reset.respEtx := rfl
@[simp] theorem resetWith_respCk (c : Params) (s : State) : (resetWith c s).respCk = State.reset.respCk := rfl
@[simp] theorem resetWith_rcsum (c : Params) (s : State) : (resetWith c s).rcsum = State.reset.rcsum := rfl
@[simp] theorem resetWith_stxOk (c : Params) (s : State) : (resetWith c s).stxOk = State.reset.stxOk := rfl
@[simp] theorem resetWith_etxOk (c : Params) (s : State) : (resetWith c s).etxOk = State.reset.etxOk := rfl
@[simp] theorem resetWith_csumOk (c : Params) (s : State) : (resetWith c s).csumOk = State.reset.csumOk := rfl
@[simp] theorem resetWith_cfg (c : Params) (s : State) : (resetWith c s).cfg = c := rfl
@[simp] theorem resetWith_txStream (c : Params) (s : State) : (resetWith c s).txStream = s.txStream := rfl
@[simp] theorem resetWith_rxStream (c : Params) (s : State) : (resetWith c s).rxStream = s.rxStream := rfl
@[simp] theorem resetWith_regRdata (c : Params) (s : State) : (resetWith c s).regRdata = s.regRdata := rfl
@[simp] theorem resetWith_events (c : Params) (s : State) : (resetWith c s).events = s.events := rfl

/-! ## startHandshake -/

@[simp] theorem startHandshake_csum (k : LinkCommand) (s : State) : (startHandshake k s).csum = s.csum := rfl
@[simp] theorem startHandshake_size (k : LinkCommand) (s : State) : (startHandshake k s).size = s.size := rfl
@[simp] theorem startHandshake_addrLen (k : LinkCommand) (s : State) : (startHandshake k s).addrLen = s.addrLen := rfl
@[simp] theorem startHandshake_addrChar (k : LinkCommand) (s : State) :
    (startHandshake k s).addrChar = s.addrChar := rfl
@[simp] theorem startHandshake_plPtr (k : LinkCommand) (s : State) : (startHandshake k s).plPtr = s.plPtr := rfl
@[simp] theorem startHandshake_phase (k : LinkCommand) (s : State) : (startHandshake k s).phase = .enqTx := rfl
@[simp] theorem startHandshake_opk (k : LinkCommand) (s : State) : (startHandshake k s).opk = k := rfl
@[simp] theorem startHandshake_idx (k : LinkCommand) (s : State) : (startHandshake k s).idx = 0 := rfl
@[simp] theorem startHandshake_done (k : LinkCommand) (s : State) : (startHandshake k s).done = s.done := rfl
@[simp] theorem startHandshake_err (k : LinkCommand) (s : State) : (startHandshake k s).err = s.err := rfl
@[simp] theorem startHandshake_hostErr (k : LinkCommand) (s : State) : (startHandshake k s).hostErr = s.hostErr := rfl
@[simp] theorem startHandshake_hdr (k : LinkCommand) (s : State) : (startHandshake k s).hdr = s.hdr := rfl
@[simp] theorem startHandshake_hdrValid (k : LinkCommand) (s : State) :
    (startHandshake k s).hdrValid = s.hdrValid := rfl
@[simp] theorem startHandshake_echo (k : LinkCommand) (s : State) :
    (startHandshake k s).echo = #v[0x00, 0x00, 0x00] := rfl
@[simp] theorem startHandshake_payload (k : LinkCommand) (s : State) : (startHandshake k s).payload = s.payload := rfl
@[simp] theorem startHandshake_plLen (k : LinkCommand) (s : State) : (startHandshake k s).plLen = s.plLen := rfl
@[simp] theorem startHandshake_respStx (k : LinkCommand) (s : State) : (startHandshake k s).respStx = s.respStx := rfl
@[simp] theorem startHandshake_respEtx (k : LinkCommand) (s : State) : (startHandshake k s).respEtx = s.respEtx := rfl
@[simp] theorem startHandshake_respCk (k : LinkCommand) (s : State) : (startHandshake k s).respCk = s.respCk := rfl
@[simp] theorem startHandshake_rcsum (k : LinkCommand) (s : State) : (startHandshake k s).rcsum = s.rcsum := rfl
@[simp] theorem startHandshake_stxOk (k : LinkCommand) (s : State) : (startHandshake k s).stxOk = s.stxOk := rfl
@[simp] theorem startHandshake_etxOk (k : LinkCommand) (s : State) : (startHandshake k s).etxOk = s.etxOk := rfl
@[simp] theorem startHandshake_csumOk (k : LinkCommand) (s : State) : (startHandshake k s).csumOk = s.csumOk := rfl
@[simp] theorem startHandshake_cfg (k : LinkCommand) (s : State) : (startHandshake k s).cfg = s.cfg := rfl
@[simp] theorem startHandshake_txStream (k : LinkCommand) (s : State) :
    (startHandshake k s).txStream = s.txStream := rfl
@[simp] theorem startHandshake_rxStream (k : LinkCommand) (s : State) :
    (startHandshake k s).rxStream = s.rxStream := rfl
@[simp] theorem startHandshake_regRdata (k : LinkCommand) (s : State) :
    (startHandshake k s).regRdata = s.regRdata := rfl
@[simp] theorem startHandshake_events (k : LinkCommand) (s : State) : (startHandshake k s).events = s.events := rfl

/-! ## clearResponse -/

@[simp] theorem clearResponse_csum (s : State) : (clearResponse s).csum = s.csum := rfl
@[simp] theorem clearResponse_size (s : State) : (clearResponse s).size = s.size := rfl
@[simp] theorem clearResponse_addrLen (s : State) : (clearResponse s).addrLen = s.addrLen := rfl
@[simp] theorem clearResponse_addrChar (s : State) : (clearResponse s).addrChar = s.addrChar := rfl
@[simp] theorem clearResponse_plPtr (s : State) : (clearResponse s).plPtr = s.plPtr := rfl
@[simp] theorem clearResponse_phase (s : State) : (clearResponse s).phase = s.phase := rfl
@[simp] theorem clearResponse_opk (s : State) : (clearResponse s).opk = s.opk := rfl
@[simp] theorem clearResponse_idx (s : State) : (clearResponse s).idx = s.idx := rfl
@[simp] theorem clearResponse_done (s : State) : (clearResponse s).done = s.done := rfl
@[simp] theorem clearResponse_err (s : State) : (clearResponse s).err = s.err := rfl
@[simp] theorem clearResponse_hostErr (s : State) : (clearResponse s).hostErr = s.hostErr := rfl
@[simp] theorem clearResponse_hdr (s : State) : (clearResponse s).hdr = s.hdr := rfl
@[simp] theorem clearResponse_hdrValid (s : State) : (clearResponse s).hdrValid = false := rfl
@[simp] theorem clearResponse_echo (s : State) : (clearResponse s).echo = s.echo := rfl
@[simp] theorem clearResponse_payload (s : State) : (clearResponse s).payload = s.payload := rfl
@[simp] theorem clearResponse_plLen (s : State) : (clearResponse s).plLen = 0 := rfl
@[simp] theorem clearResponse_respStx (s : State) : (clearResponse s).respStx = 0x00 := rfl
@[simp] theorem clearResponse_respEtx (s : State) : (clearResponse s).respEtx = 0x00 := rfl
@[simp] theorem clearResponse_respCk (s : State) : (clearResponse s).respCk = 0x00 := rfl
@[simp] theorem clearResponse_rcsum (s : State) : (clearResponse s).rcsum = 0x00 := rfl
@[simp] theorem clearResponse_stxOk (s : State) : (clearResponse s).stxOk = false := rfl
@[simp] theorem clearResponse_etxOk (s : State) : (clearResponse s).etxOk = false := rfl
@[simp] theorem clearResponse_csumOk (s : State) : (clearResponse s).csumOk = false := rfl
@[simp] theorem clearResponse_cfg (s : State) : (clearResponse s).cfg = s.cfg := rfl
@[simp] theorem clearResponse_txStream (s : State) : (clearResponse s).txStream = s.txStream := rfl
@[simp] theorem clearResponse_rxStream (s : State) : (clearResponse s).rxStream = s.rxStream := rfl
@[simp] theorem clearResponse_regRdata (s : State) : (clearResponse s).regRdata = s.regRdata := rfl
@[simp] theorem clearResponse_events (s : State) : (clearResponse s).events = s.events := rfl

/-! ## respData -/

@[simp] theorem respData_csum (b : Byte) (s : State) : (respData b s).csum = s.csum := rfl
@[simp] theorem respData_size (b : Byte) (s : State) : (respData b s).size = s.size := rfl
@[simp] theorem respData_addrLen (b : Byte) (s : State) : (respData b s).addrLen = s.addrLen := rfl
@[simp] theorem respData_addrChar (b : Byte) (s : State) : (respData b s).addrChar = s.addrChar := rfl
@[simp] theorem respData_plPtr (b : Byte) (s : State) : (respData b s).plPtr = s.plPtr := rfl
@[simp] theorem respData_phase (b : Byte) (s : State) : (respData b s).phase = s.phase := rfl
@[simp] theorem respData_opk (b : Byte) (s : State) : (respData b s).opk = s.opk := rfl
@[simp] theorem respData_idx (b : Byte) (s : State) : (respData b s).idx = s.idx + 1 := rfl
@[simp] theorem respData_done (b : Byte) (s : State) : (respData b s).done = s.done := rfl
@[simp] theorem respData_err (b : Byte) (s : State) : (respData b s).err = s.err := rfl
@[simp] theorem respData_hostErr (b : Byte) (s : State) : (respData b s).hostErr = s.hostErr := rfl
@[simp] theorem respData_hdr (b : Byte) (s : State) : (respData b s).hdr = s.hdr := rfl
@[simp] theorem respData_hdrValid (b : Byte) (s : State) : (respData b s).hdrValid = s.hdrValid := rfl
@[simp] theorem respData_echo (b : Byte) (s : State) : (respData b s).echo = s.echo := rfl
@[simp] theorem respData_payload (b : Byte) (s : State) :
    (respData b s).payload = Memory.write s.payload (s.idx.toNat - 1) b := rfl
@[simp] theorem respData_plLen (b : Byte) (s : State) : (respData b s).plLen = s.idx.setWidth 16 := rfl
@[simp] theorem respData_respStx (b : Byte) (s : State) : (respData b s).respStx = s.respStx := rfl
@[simp] theorem respData_respEtx (b : Byte) (s : State) : (respData b s).respEtx = s.respEtx := rfl
@[simp] theorem respData_respCk (b : Byte) (s : State) : (respData b s).respCk = s.respCk := rfl
@[simp] theorem respData_rcsum (b : Byte) (s : State) : (respData b s).rcsum = s.rcsum ^^^ b := rfl
@[simp] theorem respData_stxOk (b : Byte) (s : State) : (respData b s).stxOk = s.stxOk := rfl
@[simp] theorem respData_etxOk (b : Byte) (s : State) : (respData b s).etxOk = s.etxOk := rfl
@[simp] theorem respData_csumOk (b : Byte) (s : State) : (respData b s).csumOk = s.csumOk := rfl
@[simp] theorem respData_cfg (b : Byte) (s : State) : (respData b s).cfg = s.cfg := rfl
@[simp] theorem respData_txStream (b : Byte) (s : State) : (respData b s).txStream = s.txStream := rfl
@[simp] theorem respData_rxStream (b : Byte) (s : State) : (respData b s).rxStream = s.rxStream := rfl
@[simp] theorem respData_regRdata (b : Byte) (s : State) : (respData b s).regRdata = s.regRdata := rfl
@[simp] theorem respData_events (b : Byte) (s : State) : (respData b s).events = s.events := rfl

/-! ## respEtxByte -/

@[simp] theorem respEtxByte_csum (b : Byte) (s : State) : (respEtxByte b s).csum = s.csum := rfl
@[simp] theorem respEtxByte_size (b : Byte) (s : State) : (respEtxByte b s).size = s.size := rfl
@[simp] theorem respEtxByte_addrLen (b : Byte) (s : State) : (respEtxByte b s).addrLen = s.addrLen := rfl
@[simp] theorem respEtxByte_addrChar (b : Byte) (s : State) : (respEtxByte b s).addrChar = s.addrChar := rfl
@[simp] theorem respEtxByte_plPtr (b : Byte) (s : State) : (respEtxByte b s).plPtr = s.plPtr := rfl
@[simp] theorem respEtxByte_phase (b : Byte) (s : State) : (respEtxByte b s).phase = s.phase := rfl
@[simp] theorem respEtxByte_opk (b : Byte) (s : State) : (respEtxByte b s).opk = s.opk := rfl
@[simp] theorem respEtxByte_idx (b : Byte) (s : State) : (respEtxByte b s).idx = s.idx + 1 := rfl
@[simp] theorem respEtxByte_done (b : Byte) (s : State) : (respEtxByte b s).done = s.done := rfl
@[simp] theorem respEtxByte_err (b : Byte) (s : State) : (respEtxByte b s).err = s.err := rfl
@[simp] theorem respEtxByte_hostErr (b : Byte) (s : State) : (respEtxByte b s).hostErr = s.hostErr := rfl
@[simp] theorem respEtxByte_hdr (b : Byte) (s : State) : (respEtxByte b s).hdr = s.hdr := rfl
@[simp] theorem respEtxByte_hdrValid (b : Byte) (s : State) : (respEtxByte b s).hdrValid = s.hdrValid := rfl
@[simp] theorem respEtxByte_echo (b : Byte) (s : State) : (respEtxByte b s).echo = s.echo := rfl
@[simp] theorem respEtxByte_payload (b : Byte) (s : State) : (respEtxByte b s).payload = s.payload := rfl
@[simp] theorem respEtxByte_plLen (b : Byte) (s : State) : (respEtxByte b s).plLen = s.plLen := rfl
@[simp] theorem respEtxByte_respStx (b : Byte) (s : State) : (respEtxByte b s).respStx = s.respStx := rfl
@[simp] theorem respEtxByte_respEtx (b : Byte) (s : State) : (respEtxByte b s).respEtx = b := rfl
@[simp] theorem respEtxByte_respCk (b : Byte) (s : State) : (respEtxByte b s).respCk = s.respCk := rfl
@[simp] theorem respEtxByte_rcsum (b : Byte) (s : State) :
    (respEtxByte b s).rcsum = if s.cfg.respCsumSpan = .dataEtx then s.rcsum ^^^ b else s.rcsum := rfl
@[simp] theorem respEtxByte_stxOk (b : Byte) (s : State) : (respEtxByte b s).stxOk = s.stxOk := rfl
@[simp] theorem respEtxByte_etxOk (b : Byte) (s : State) : (respEtxByte b s).etxOk = s.etxOk := rfl
@[simp] theorem respEtxByte_csumOk (b : Byte) (s : State) : (respEtxByte b s).csumOk = s.csumOk := rfl
@[simp] theorem respEtxByte_cfg (b : Byte) (s : State) : (respEtxByte b s).cfg = s.cfg := rfl
@[simp] theorem respEtxByte_txStream (b : Byte) (s : State) : (respEtxByte b s).txStream = s.txStream := rfl
@[simp] theorem respEtxByte_rxStream (b : Byte) (s : State) : (respEtxByte b s).rxStream = s.rxStream := rfl
@[simp] theorem respEtxByte_regRdata (b : Byte) (s : State) : (respEtxByte b s).regRdata = s.regRdata := rfl
@[simp] theorem respEtxByte_events (b : Byte) (s : State) : (respEtxByte b s).events = s.events := rfl

/-! ## respChecks -/

@[simp] theorem respChecks_csum (b : Byte) (s : State) : (respChecks b s).csum = s.csum := rfl
@[simp] theorem respChecks_size (b : Byte) (s : State) : (respChecks b s).size = s.size := rfl
@[simp] theorem respChecks_addrLen (b : Byte) (s : State) : (respChecks b s).addrLen = s.addrLen := rfl
@[simp] theorem respChecks_addrChar (b : Byte) (s : State) : (respChecks b s).addrChar = s.addrChar := rfl
@[simp] theorem respChecks_plPtr (b : Byte) (s : State) : (respChecks b s).plPtr = s.plPtr := rfl
@[simp] theorem respChecks_phase (b : Byte) (s : State) : (respChecks b s).phase = s.phase := rfl
@[simp] theorem respChecks_opk (b : Byte) (s : State) : (respChecks b s).opk = s.opk := rfl
@[simp] theorem respChecks_idx (b : Byte) (s : State) : (respChecks b s).idx = s.idx := rfl
@[simp] theorem respChecks_done (b : Byte) (s : State) : (respChecks b s).done = s.done := rfl
@[simp] theorem respChecks_err (b : Byte) (s : State) : (respChecks b s).err = s.err := rfl
@[simp] theorem respChecks_hostErr (b : Byte) (s : State) : (respChecks b s).hostErr = s.hostErr := rfl
@[simp] theorem respChecks_hdr (b : Byte) (s : State) : (respChecks b s).hdr = s.hdr := rfl
@[simp] theorem respChecks_hdrValid (b : Byte) (s : State) : (respChecks b s).hdrValid = s.hdrValid := rfl
@[simp] theorem respChecks_echo (b : Byte) (s : State) : (respChecks b s).echo = s.echo := rfl
@[simp] theorem respChecks_payload (b : Byte) (s : State) : (respChecks b s).payload = s.payload := rfl
@[simp] theorem respChecks_plLen (b : Byte) (s : State) : (respChecks b s).plLen = s.plLen := rfl
@[simp] theorem respChecks_respStx (b : Byte) (s : State) : (respChecks b s).respStx = s.respStx := rfl
@[simp] theorem respChecks_respEtx (b : Byte) (s : State) : (respChecks b s).respEtx = s.respEtx := rfl
@[simp] theorem respChecks_respCk (b : Byte) (s : State) : (respChecks b s).respCk = b := rfl
@[simp] theorem respChecks_rcsum (b : Byte) (s : State) : (respChecks b s).rcsum = s.rcsum := rfl
@[simp] theorem respChecks_stxOk (b : Byte) (s : State) : (respChecks b s).stxOk = (s.respStx == codeStx) := rfl
@[simp] theorem respChecks_etxOk (b : Byte) (s : State) : (respChecks b s).etxOk = (s.respEtx == codeEtx) := rfl
@[simp] theorem respChecks_csumOk (b : Byte) (s : State) : (respChecks b s).csumOk = (s.rcsum == b) := rfl
@[simp] theorem respChecks_cfg (b : Byte) (s : State) : (respChecks b s).cfg = s.cfg := rfl
@[simp] theorem respChecks_txStream (b : Byte) (s : State) : (respChecks b s).txStream = s.txStream := rfl
@[simp] theorem respChecks_rxStream (b : Byte) (s : State) : (respChecks b s).rxStream = s.rxStream := rfl
@[simp] theorem respChecks_regRdata (b : Byte) (s : State) : (respChecks b s).regRdata = s.regRdata := rfl
@[simp] theorem respChecks_events (b : Byte) (s : State) : (respChecks b s).events = s.events := rfl

end Sys2Proof.Machine
end

