-- ==== Sys2Proof/Laws/Ops.lean ====
section
/-! SUPPORT. For each shared operation, one lemma that says all it can do; later proofs cite these and do not unfold
the operation again. -/

namespace Sys2Proof.Machine

/-- A command always answers a next state: the write ignored while BUSY = 1, else its body on the accepted state. -/
theorem command_cases {body : State → State} {s : State} {o : Host.Outcome State Fault Refusal}
    (h : command body s = o) :
    (busy s = true ∧ o = .next (refuseWrite s)) ∨ (busy s = false ∧ o = .next (body (accept s))) := by
  unfold command at h
  split at h
  · rename_i hb; exact .inl ⟨hb, h.symm⟩
  · rename_i hb; exact .inr ⟨by simpa using hb, h.symm⟩

theorem command_of_idle {body : State → State} {s : State} (h : busy s = false) :
    command body s = .next (body (accept s)) := by simp [command, h]

theorem command_of_busy {body : State → State} {s : State} (h : busy s = true) :
    command body s = .next (refuseWrite s) := by simp [command, h]

/-- The encoder reads only the address registers, SIZE and the parameters (42_header_encoder.md R160). -/
theorem encodeHeader_congr {s t : State} (op : Nibble) (hc : s.addrChar = t.addrChar) (hl : s.addrLen = t.addrLen)
    (hs : s.size = t.size) (hp : s.cfg = t.cfg) : encodeHeader op s = encodeHeader op t := by
  unfold encodeHeader addrString
  rw [hc, hl, hs, hp]

/-- The encoder's errors (42_header_encoder.md R169). -/
theorem encodeHeader_error {s : State} {op : Nibble} {e : ErrCode} (h : encodeHeader op s = .error e) :
    e = .unknownMemoryType ∨ e = .invalidAddress := by
  have hmem : ∀ str e', memTypeOf s.cfg str = .error e' → e' = .unknownMemoryType := by
    intro str e' h'
    unfold memTypeOf at h'
    split at h'
    · cases h'; rfl
    · split at h' <;> cases h'; rfl
  have hdig : ∀ ds e', parseDigits ds = .error e' → e' = .invalidAddress := by
    intro ds e' h'
    unfold parseDigits at h'
    split at h'
    · cases h'; rfl
    · split at h'
      · cases h'; rfl
      · split at h' <;> cases h'; rfl
  have hsize : ∀ z e', splitSize z ≠ .error e' := by
    intro z e' h'
    unfold splitSize at h'
    split at h'
    · rename_i hgt; have := z.isLt; omega
    · cases h'
  unfold encodeHeader at h
  split at h
  · rename_i e' he; cases h; exact .inl (hmem _ _ he)
  · split at h
    · rename_i e' he; cases h; exact .inr (hdig _ _ he)
    · split at h
      · rename_i e' he; exact absurd he (hsize _ _)
      · cases h

/-- HDR_BUILD after acceptance: the error with HDR kept, or the header built. -/
theorem hdrBuild_cases (op : Nibble) (s : State) :
    (∃ e, encodeHeader op s = .error e ∧ hdrBuild op s = raise e { s with hdrValid := false }) ∨
    (∃ h, encodeHeader op s = .ok h ∧ hdrBuild op s = { s with hdr := h, hdrValid := true, done := true }) := by
  unfold hdrBuild
  cases h : encodeHeader op s with
  | error e => exact .inl ⟨e, rfl, rfl⟩
  | ok hd => exact .inr ⟨hd, rfl, rfl⟩

/-- RESET: refused for parameters it does not sample, else the reset state with the sampled ones. -/
theorem resetEvent_cases (p : RawParams) (s : State) :
    (sampleParams p = none ∧ resetEvent p s = .refused .illFormedConfig) ∨
    (∃ c, sampleParams p = some c ∧ resetEvent p s = .next (resetWith c s)) := by
  unfold resetEvent
  cases h : sampleParams p with
  | none => exact .inl ⟨rfl, rfl⟩
  | some c => exact .inr ⟨c, rfl, rfl⟩

/-- A host read changes the read data output only. -/
theorem regRead_eq (i : Byte) (s : State) : regRead i s = { s with regRdata := regValue s i } := rfl

/-- PL_DATA below PL_LEN (10_state.md R37). -/
theorem plData_of_lt {s : State} (h : s.plPtr.toNat < s.plLen.toNat) :
    plData s = (Memory.read s.payload s.plPtr.toNat).setWidth 16 := if_pos h

/-- PL_DATA at or above PL_LEN: 0, whatever PAYLOAD holds there (10_state.md R36, R37). -/
theorem plData_of_le {s : State} (h : s.plLen.toNat ≤ s.plPtr.toNat) : plData s = 0x0000 := if_neg (Nat.not_lt.mpr h)

/-- A host write to a register other than CMD: ignored, or one operand register written. -/
theorem regWrite_cases (i : Byte) (v : Word) (s : State) :
    regWrite i v s = refuseWrite s ∨
    (busy s = false ∧
      ((i.toNat = 0x04 ∧ regWrite i v s = { s with size := v }) ∨
       (i.toNat = 0x05 ∧ v.toNat ≤ 16 ∧ regWrite i v s = { s with addrLen := v.setWidth 5 }) ∨
       (i.toNat = 0x06 ∧ regWrite i v s = { s with plPtr := v }) ∨
       (0x10 ≤ i.toNat ∧ i.toNat ≤ 0x1F ∧ v.toNat ≤ 0xFF ∧
         regWrite i v s =
           { s with addrChar := s.addrChar.setIfInBounds (i.toNat - 0x10) (v.setWidth 8) }))) := by
  unfold regWrite
  split
  · exact .inl rfl
  · rename_i hb
    have hb : busy s = false := by simpa using hb
    split
    · rename_i h; exact .inr ⟨hb, .inl ⟨h, rfl⟩⟩
    · rename_i h
      unfold writeAddrLen
      split
      · rename_i hv; exact .inr ⟨hb, .inr (.inl ⟨h, hv, rfl⟩)⟩
      · exact .inl rfl
    · rename_i h; exact .inr ⟨hb, .inr (.inr (.inl ⟨h, rfl⟩))⟩
    · split
      · rename_i h
        unfold writeAddrChar
        split
        · rename_i hv; exact .inr ⟨hb, .inr (.inr (.inr ⟨h.1, h.2, hv, rfl⟩))⟩
        · exact .inl rfl
      · exact .inl rfl

/-- What the third reply byte completes (41_handshake.md R145, 45_read_transaction.md R221). -/
theorem handshakeComplete_cases (s : State) :
    (s.echo ≠ expFrame s.cfg ∧ handshakeComplete s = raise .handshakeRejected s) ∨
    (s.echo = expFrame s.cfg ∧ s.opk = .testConnection ∧
      handshakeComplete s = { s with phase := .link, done := true }) ∨
    (s.echo = expFrame s.cfg ∧ s.opk = .readValue ∧
      ((∃ e, encodeHeader 0x0 s = .error e ∧ handshakeComplete s = raise e s) ∨
       (∃ h, encodeHeader 0x0 s = .ok h ∧
         handshakeComplete s = { s with hdr := h, hdrValid := true, idx := 0, phase := .hdrTx }))) := by
  by_cases h : s.echo = expFrame s.cfg
  · have hk : s.opk = .testConnection ∨ s.opk = .readValue := by
      cases s.opk with
      | testConnection => exact .inl rfl
      | readValue => exact .inr rfl
    have hif : ¬ (s.echo ≠ expFrame s.cfg) := by simpa using h
    rcases hk with ho | ho
    · refine .inr (.inl ⟨h, ho, ?_⟩)
      unfold handshakeComplete
      rw [if_neg hif, ho]
    · refine .inr (.inr ⟨h, ho, ?_⟩)
      have hs : handshakeComplete s = startHeader s := by
        unfold handshakeComplete
        rw [if_neg hif, ho]
      rw [hs]
      unfold startHeader
      cases encodeHeader 0x0 s with
      | error e => exact .inl ⟨e, rfl, rfl⟩
      | ok hd => exact .inr ⟨hd, rfl, rfl⟩
  · refine .inl ⟨h, ?_⟩
    unfold handshakeComplete
    rw [if_pos h]

/-- RX(b) in `ENQ_RX` (41_handshake.md R144). -/
theorem rxEnq_cases (b : Byte) (s : State) :
    (∃ h : s.idx.toNat < 3, s.idx.toNat < 2 ∧
      rxEnq b s = .next { s with echo := s.echo.set s.idx.toNat b h, idx := s.idx + 1 }) ∨
    (∃ h : s.idx.toNat < 3, s.idx.toNat = 2 ∧
      rxEnq b s = .next (handshakeComplete { s with echo := s.echo.set s.idx.toNat b h })) ∨
    (3 ≤ s.idx.toNat ∧ rxEnq b s = .fault .idxOutsideFrame) := by
  unfold rxEnq
  by_cases h : s.idx.toNat < 3
  · by_cases h2 : s.idx.toNat < 2
    · exact .inl ⟨h, h2, by simp [h, h2]⟩
    · exact .inr (.inl ⟨h, by omega, by simp [h, h2]⟩)
  · exact .inr (.inr ⟨by omega, by simp [h]⟩)

/-- RX(b) in `RESP_RX` (44_response_parser.md R202 to R205). -/
theorem rxResp_cases (b : Byte) (s : State) :
    (s.idx.toNat = 0 ∧ rxResp b s = .next { s with respStx := b, idx := 1 }) ∨
    (1 ≤ s.idx.toNat ∧ s.idx.toNat ≤ s.size.toNat ∧ rxResp b s = .next (respData b s)) ∨
    (s.idx.toNat = s.size.toNat + 1 ∧ rxResp b s = .next (respEtxByte b s)) ∨
    (s.idx.toNat = s.size.toNat + 2 ∧ rxResp b s = .next (respLast b s)) ∨
    (s.size.toNat + 2 < s.idx.toNat ∧ rxResp b s = .fault .idxOutsideFrame) := by
  unfold rxResp
  split
  · rename_i h; exact .inl ⟨h, rfl⟩
  · rename_i h0
    split
    · rename_i h; exact .inr (.inl ⟨by omega, h, rfl⟩)
    · rename_i h1
      split
      · rename_i h; exact .inr (.inr (.inl ⟨h, rfl⟩))
      · rename_i h2
        split
        · rename_i h; exact .inr (.inr (.inr (.inl ⟨h, rfl⟩)))
        · exact .inr (.inr (.inr (.inr ⟨by omega, rfl⟩)))

/-- The checksum byte of the response: rejected in strict mode, or on to the acknowledge (R205, R207, R208). -/
theorem respLast_cases (b : Byte) (s : State) :
    (s.cfg.strictResponse = true ∧ (s.respStx ≠ codeStx ∨ s.respEtx ≠ codeEtx ∨ s.rcsum ≠ b) ∧
      respLast b s = raise .badResponseFrame (respChecks b s)) ∨
    ((s.cfg.strictResponse = false ∨ (s.respStx = codeStx ∧ s.respEtx = codeEtx ∧ s.rcsum = b)) ∧
      respLast b s = { respChecks b s with idx := 0, phase := .ackTx }) := by
  unfold respLast
  cases hs : s.cfg.strictResponse with
  | false => exact .inr ⟨.inl rfl, by simp [hs]⟩
  | true =>
    by_cases h1 : s.respStx = codeStx
    · by_cases h2 : s.respEtx = codeEtx
      · by_cases h3 : s.rcsum = b
        · exact .inr ⟨.inr ⟨h1, h2, h3⟩, by simp [hs, h1, h2, h3]⟩
        · exact .inl ⟨rfl, .inr (.inr h3), by simp [hs, h3]⟩
      · exact .inl ⟨rfl, .inr (.inl h2), by simp [hs, h2]⟩
    · exact .inl ⟨rfl, .inl h1, by simp [hs, h1]⟩

/-- One byte on the link: RX(b), TX_ACC of the offered byte, or no transfer. -/
theorem linkByte_cases (b : Byte) (s : State) :
    (rxReady s = true ∧ linkByte b s = rxByte b s) ∨
    (rxReady s = false ∧ txByte s = some b ∧ linkByte b s = .next (txAccept b s)) ∨
    (rxReady s = false ∧ txByte s ≠ some b ∧ linkByte b s = .next s) := by
  unfold linkByte
  cases hr : rxReady s with
  | true => exact .inl ⟨rfl, by simp⟩
  | false =>
    by_cases ht : txByte s = some b
    · exact .inr (.inl ⟨rfl, ht, by simp [ht]⟩)
    · exact .inr (.inr ⟨rfl, ht, by simp [ht]⟩)

/-- A step with a next event: the instruction word it brings, or the event itself. -/
theorem step_cases (s : State) :
    (s.events = [] ∧ step s = .next s) ∨
    (∃ e es w, s.events = e :: es ∧ fetch s = some w ∧ step s = runWord w (consume s)) ∨
    (∃ e es, s.events = e :: es ∧ fetch s = none ∧ step s = runEvent e (consume s)) := by
  unfold step runNext
  cases he : s.events with
  | nil => exact .inl ⟨rfl, rfl⟩
  | cons e es =>
    cases hf : fetch s with
    | none => exact .inr (.inr ⟨e, es, rfl, rfl, rfl⟩)
    | some w => exact .inr (.inl ⟨e, es, w, rfl, rfl, rfl⟩)

/-- The abort of a link command (60_exceptions.md R253). -/
theorem raise_of_busy {s : State} (h : busy s = true) (e : ErrCode) :
    raise e s = { s with err := e, done := true, phase := .idle } := by simp [raise, h]

/-- The abort of a local command leaves PHASE (60_exceptions.md R253). -/
theorem raise_of_idle {s : State} (h : busy s = false) (e : ErrCode) :
    raise e s = { s with err := e, done := true } := by simp [raise, h]

/-- RX_TIMEOUT does nothing, or aborts the running link command (40_host_interface.md R134). -/
theorem rxTimeout_cases (s : State) :
    rxTimeout s = s ∨
    (∃ e, (e = .timeout ∨ e = .shortRead) ∧ busy s = true ∧
      rxTimeout s = { s with err := e, done := true, phase := .idle }) := by
  unfold rxTimeout
  split <;> rename_i hp <;> have hb : busy s = s.phase.busy := rfl <;> rw [hp] at hb
  all_goals first
    | exact .inl rfl
    | exact .inr ⟨.timeout, .inl rfl, hb, raise_of_busy hb _⟩
    | exact .inr ⟨.shortRead, .inr rfl, hb, raise_of_busy hb _⟩

end Sys2Proof.Machine
end

