-- ==== Sys2Proof/Laws/PerInstr.lean ====
section
/-! SUPPORT. The per-instruction family EncodedForm: every instruction is well formed, and its encoding has the form of
its row in spec/opcode_table.json. -/

namespace Sys2Proof.Laws.EncodedForm

/-- The form of a row: a command is a well-formed command word (30_encoding.md R96), any other row a link byte of
spec/opcode_table.json. -/
def formOk : InstrWord → Bool
  | .cmd w => cmdWordWf w
  | .link b => [0x30, 0x38, 0x01, 0x02, 0x03, 0x04, 0x05, 0x06, 0x15, 0x17].contains b

/-- i is well formed and its encoding has the form of its row. -/
def Statement (i : Instr) : Prop := i.wf = true ∧ formOk (encode i) = true

theorem csumClear : Statement .csumClear := ⟨rfl, by decide⟩
theorem csumFold (b : Byte) : Statement (.csumFold b) := by
  refine ⟨rfl, ?_⟩
  show cmdWordWf (cmdWord 0x2 b) = true
  revert b
  decide
theorem hdrBuildRd : Statement .hdrBuildRd := ⟨rfl, by decide⟩
theorem hdrBuildWr : Statement .hdrBuildWr := ⟨rfl, by decide⟩
theorem testConnection : Statement .testConnection := ⟨rfl, by decide⟩
theorem readValue : Statement .readValue := ⟨rfl, by decide⟩
theorem opRead : Statement .opRead := ⟨rfl, by decide⟩
theorem opWrite : Statement .opWrite := ⟨rfl, by decide⟩
theorem soh : Statement .soh := ⟨rfl, by decide⟩
theorem stx : Statement .stx := ⟨rfl, by decide⟩
theorem etx : Statement .etx := ⟨rfl, by decide⟩
theorem eot : Statement .eot := ⟨rfl, by decide⟩
theorem enq : Statement .enq := ⟨rfl, by decide⟩
theorem ack : Statement .ack := ⟨rfl, by decide⟩
theorem nak : Statement .nak := ⟨rfl, by decide⟩
theorem etb : Statement .etb := ⟨rfl, by decide⟩

end Sys2Proof.Laws.EncodedForm
end

