-- ==== Sys2Proof/Laws/Step.lean ====
section
/-! SUPPORT. What a step can do, once: the step of each kind of event, and the inversion of a step that answers a next
state. -/

namespace Sys2Proof.Machine

/-- The meaning of a link row is the transfer of its byte. -/
theorem exec_linkRow {i : Instr} {b : Byte} (h : (i, b) ∈ linkRows) (s : State) : exec i s = linkByte b s := by
  simp only [linkRows, List.mem_cons, Prod.mk.injEq, List.not_mem_nil, or_false] at h
  rcases h with h | h | h | h | h | h | h | h | h | h <;> obtain ⟨rfl, rfl⟩ := h <;> rfl

/-- What a link byte decodes to is its row. -/
theorem decodeLink_mem_linkRows {b : Byte} {i : Instr} (h : decodeLink b = .ok i) : (i, b) ∈ linkRows := by
  unfold decodeLink at h
  iterate 10
    split at h
    · rename_i hb
      cases h
      rw [hb]
      decide
  cases h

/-- What a command word decodes to is a command. -/
theorem decodeCmd_isCommand {v : Word} {i : Instr} (h : decodeCmd v = .ok i) : isCommand i = true := by
  have two : ∀ j : Instr, isCommand j = true → withoutOperand v j = .ok i → isCommand i = true := by
    intro j hj h'
    unfold withoutOperand at h'
    split at h' <;> cases h'
    exact hj
  unfold decodeCmd at h
  split at h
  · cases h
  · split at h
    · exact two _ rfl h
    · cases h; rfl
    · exact two _ rfl h
    · exact two _ rfl h
    · exact two _ rfl h
    · exact two _ rfl h
    · cases h

/-- A link byte is transferred the same way whether it is a row of the table or not. -/
theorem runWord_link (b : Byte) (s : State) : runWord (.link b) s = linkByte b s := by
  unfold runWord
  show (match decodeLink b with
    | .ok i => exec i s
    | .error _ => runUnlisted (.link b) s) = linkByte b s
  cases h : decodeLink b with
  | error e => rfl
  | ok i => exact exec_linkRow (decodeLink_mem_linkRows h) s

theorem rxReady_of_events (s : State) (es : List Event) : rxReady { s with events := es } = rxReady s := rfl

theorem txByte_of_events (s : State) (es : List Event) : txByte { s with events := es } = txByte s := rfl

/-- In a phase that reads, the block offers nothing. -/
theorem txByte_of_rxReady {s : State} (h : rxReady s = true) : txByte s = none := by
  unfold rxReady Phase.reads at h
  unfold txByte
  cases hp : s.phase <;> simp_all

/-- A byte is offered only in a phase that sends. -/
theorem txValid_of_txByte {s : State} {b : Byte} (h : txByte s = some b) : txValid s = true ∧ rxReady s = false := by
  unfold txByte at h
  unfold txValid rxReady
  cases hp : s.phase <;> simp_all [Phase.sends, Phase.reads]

theorem step_nil {s : State} (h : s.events = []) : step s = .next s := by
  simp [step, runNext, h]

theorem step_regRd {s : State} {i : Byte} {es : List Event} (h : s.events = .regRd i :: es) :
    step s = .next (regRead i { s with events := es }) := by
  simp [step, runNext, fetch, consume, runEvent, h]

theorem step_cmd {s : State} {v : Word} {es : List Event} (h : s.events = .regWr 0x00 v :: es) :
    step s = runWord (.cmd v) { s with events := es } := by
  simp [step, runNext, fetch, consume, h]

theorem step_regWr {s : State} {i : Byte} {v : Word} {es : List Event} (h : s.events = .regWr i v :: es)
    (hi : i ≠ 0x00) : step s = .next (regWrite i v { s with events := es }) := by
  have hf : fetch s = none := by
    unfold fetch
    rw [h]
    exact if_neg hi
  simp [step, runNext, hf, consume, runEvent, h]

theorem step_txAcc {s : State} {b : Byte} {es : List Event} (h : s.events = .txAcc :: es) (hb : txByte s = some b) :
    step s = .next (txAccept b { s with events := es }) := by
  have hstep : step s = runWord (.link b) { s with events := es } := by
    simp [step, runNext, fetch, consume, h, hb]
  rw [hstep, runWord_link]
  have hr : rxReady { s with events := es } = false := (txValid_of_txByte hb).2
  have ht : txByte { s with events := es } = some b := hb
  simp [linkByte, hr, ht]

theorem step_txAcc_none {s : State} {es : List Event} (h : s.events = .txAcc :: es) (hb : txByte s = none) :
    step s = if txValid s then .fault .idxOutsideFrame else .next { s with events := es } := by
  have hv : txValid { s with events := es } = txValid s := rfl
  simp [step, runNext, fetch, consume, runEvent, h, hb, hv]

theorem step_rx {s : State} {b : Byte} {bs : List Byte} {es : List Event} (h : s.events = .rx :: es)
    (hr : rxReady s = true) (hb : s.rxStream = b :: bs) :
    step s = rxByte b { s with events := es, rxStream := bs } := by
  have hstep : step s = runWord (.link b) { s with events := es, rxStream := bs } := by
    simp [step, runNext, fetch, consume, h, hr, hb]
  rw [hstep, runWord_link]
  have hr' : rxReady { s with events := es, rxStream := bs } = true := hr
  simp [linkByte, hr']

theorem step_rx_idle {s : State} {es : List Event} (h : s.events = .rx :: es)
    (hr : rxReady s = false ∨ s.rxStream = []) : step s = .next { s with events := es } := by
  rcases hr with hr | hr
  · simp [step, runNext, fetch, consume, runEvent, h, hr]
  · simp [step, runNext, fetch, consume, runEvent, h, hr]

theorem step_rxTimeout {s : State} {es : List Event} (h : s.events = .rxTimeout :: es) :
    step s = .next (rxTimeout { s with events := es }) := by
  simp [step, runNext, fetch, consume, runEvent, h]

theorem step_reset {s : State} {p : RawParams} {es : List Event} (h : s.events = .reset p :: es) :
    step s = resetEvent p { s with events := es } := by
  simp [step, runNext, fetch, consume, runEvent, h]

/-- Everything a step that answers a next state can do. -/
theorem step_next_cases {s t : State} (h : step s = .next t) :
    (s.events = [] ∧ t = s) ∨
    (∃ i v es, s.events = .regRd i :: es ∧ t = { s with events := es, regRdata := v }) ∨
    (∃ v e es, s.events = .regWr 0x00 v :: es ∧ decodeCmd v = .error e ∧ t = refuseWrite { s with events := es }) ∨
    (∃ v i es, s.events = .regWr 0x00 v :: es ∧ decodeCmd v = .ok i ∧ isCommand i = true ∧
      exec i { s with events := es } = .next t) ∨
    (∃ i v es, s.events = .regWr i v :: es ∧ i ≠ 0x00 ∧ t = regWrite i v { s with events := es }) ∨
    (∃ b es, s.events = .txAcc :: es ∧ txByte s = some b ∧ t = txAccept b { s with events := es }) ∨
    (∃ es, s.events = .txAcc :: es ∧ txByte s = none ∧ txValid s = false ∧ t = { s with events := es }) ∨
    (∃ b bs es, s.events = .rx :: es ∧ rxReady s = true ∧ s.rxStream = b :: bs ∧
      rxByte b { s with events := es, rxStream := bs } = .next t) ∨
    (∃ es, s.events = .rx :: es ∧ (rxReady s = false ∨ s.rxStream = []) ∧ t = { s with events := es }) ∨
    (∃ es, s.events = .rxTimeout :: es ∧ t = rxTimeout { s with events := es }) ∨
    (∃ p c es, s.events = .reset p :: es ∧ sampleParams p = some c ∧ t = resetWith c { s with events := es }) := by
  cases he : s.events with
  | nil => rw [step_nil he] at h; cases h; exact .inl ⟨rfl, rfl⟩
  | cons e es =>
    right
    cases e with
    | regRd i =>
      left
      rw [step_regRd he] at h
      cases h
      exact ⟨i, _, es, rfl, regRead_eq i _⟩
    | regWr i v =>
      right
      by_cases hi : i = 0x00
      · subst hi
        rw [step_cmd he] at h
        unfold runWord at h
        change (match decodeCmd v with
          | .ok i => exec i { s with events := es }
          | .error _ => runUnlisted (.cmd v) { s with events := es }) = .next t at h
        cases hd : decodeCmd v with
        | error e => rw [hd] at h; cases h; exact .inl ⟨v, e, es, rfl, hd, rfl⟩
        | ok i => rw [hd] at h; exact .inr (.inl ⟨v, i, es, rfl, hd, decodeCmd_isCommand hd, h⟩)
      · rw [step_regWr he hi] at h
        cases h
        exact .inr (.inr (.inl ⟨i, v, es, rfl, hi, rfl⟩))
    | txAcc =>
      right; right; right; right
      cases hb : txByte s with
      | some b => rw [step_txAcc he hb] at h; cases h; exact .inl ⟨b, es, rfl, rfl, rfl⟩
      | none =>
        rw [step_txAcc_none he hb] at h
        split at h
        · cases h
        · rename_i hv; cases h; exact .inr (.inl ⟨es, rfl, rfl, by simpa using hv, rfl⟩)
    | rx =>
      right; right; right; right; right; right
      cases hr : rxReady s with
      | false => rw [step_rx_idle he (.inl hr)] at h; cases h; exact .inr (.inl ⟨es, rfl, .inl rfl, rfl⟩)
      | true =>
        by_cases hb : s.rxStream = []
        · rw [step_rx_idle he (.inr hb)] at h; cases h; exact .inr (.inl ⟨es, rfl, .inr hb, rfl⟩)
        · obtain ⟨b, bs, hb⟩ := List.exists_cons_of_ne_nil hb
          rw [step_rx he hr hb] at h; exact .inl ⟨b, bs, es, rfl, rfl, hb, h⟩
    | rxTimeout =>
      right; right; right; right; right; right; right; right; left
      rw [step_rxTimeout he] at h
      cases h
      exact ⟨es, rfl, rfl⟩
    | reset p =>
      right; right; right; right; right; right; right; right; right
      rw [step_reset he] at h
      rcases resetEvent_cases p { s with events := es } with ⟨_, h'⟩ | ⟨c, hc, h'⟩
      · rw [h'] at h; cases h
      · rw [h'] at h; cases h; exact ⟨p, c, es, rfl, hc, rfl⟩

end Sys2Proof.Machine
end

