-- ==== Sys2Proof/Tests/Slice0.lean ====
section
/-! SUPPORT. Small tests with expected values from 95_test_vectors.md (the vector is named) or counted by hand from the
rule named, and the witnesses of the statements' hypotheses. -/

namespace Sys2Proof.Tests

open Sys2Proof Sys2Proof.Machine

/-! ## Small states -/

/-- The next state, if there is one. -/
def nextOf : Host.Outcome State Fault Refusal → Option State
  | .next s => some s
  | .fault _ => none
  | .refused _ => none

/-- The value, if there is one. -/
def valueOf {α : Type} : Except ErrCode α → Option α
  | .ok a => some a
  | .error _ => none

/-- The error, if there is one. -/
def errorOf {α : Type} : Except ErrCode α → ErrCode
  | .ok _ => .none
  | .error e => e

/-- Reset, with an address string and a size in the operand registers. -/
def prepared (str : List Byte) (size : Word) : State :=
  { State.reset with
    addrLen := BitVec.ofNat 5 str.length, addrChar := Vector.ofFn (fun k => str.getD k.val 0x00), size := size }

/-- "V400", size 4: the operands of vector V20. -/
def v400 : State := prepared [0x56, 0x34, 0x30, 0x30] 4

/-- The header of vector V20. -/
def v20 : Vector Byte 17 :=
  #v[0x01, 0x30, 0x31, 0x30, 0x31, 0x30, 0x31, 0x30, 0x30, 0x30, 0x30, 0x30, 0x34, 0x30, 0x30, 0x17, 0x12]

/-- A state in a phase of a READ_VALUE of size 4 whose header is v20. -/
def inPhase (p : Phase) (k : BitVec 17) : State :=
  { v400 with phase := p, idx := k, opk := .readValue, hdr := v20, hdrValid := true }

/-- In the response, after `02 12`. -/
def midResponse : State :=
  { inPhase .respRx 2 with respStx := 0x02, payload := [(0, 0x12)], plLen := 1, rcsum := 0x12 }

/-- The parameters of strict mode. -/
def strictly (s : State) : State := { s with cfg := { s.cfg with strictResponse := true } }

/-- The state with one event. -/
def withEvent (e : Event) (s : State) : State := { s with events := [e] }

/-! ## Well-formedness: each check refuses an ill-formed term -/

/-- Parameters that pass every check. -/
def goodParams : RawParams :=
  { clientId := 15, memType := [(0x56, 1), (0x58, 15)], strictResponse := true, respCsumSpan := .data }

theorem test_wf_good : goodParams.wf = true := by decide
theorem test_wf_client_zero : { goodParams with clientId := 0 }.wf = false := by decide
theorem test_wf_code_above_15 : { goodParams with memType := [(0x56, 1), (0x58, 16)] }.wf = false := by decide
theorem test_wf_key_twice : { goodParams with memType := [(0x56, 1), (0x56, 1)] }.wf = false := by decide
theorem test_wf_v_missing : { goodParams with memType := [(0x58, 1)] }.wf = false := by decide
theorem test_wf_v_wrong : { goodParams with memType := [(0x56, 2)] }.wf = false := by decide
theorem test_wf_sampled_good : Params.defaults.wf = true := by decide
theorem test_wf_sampled_client_zero : { Params.defaults with clientId := 0 }.wf = false := by decide
theorem test_wf_sampled_key_twice : { Params.defaults with memType := [(0x56, 1), (0x56, 2)] }.wf = false := by decide
theorem test_wf_sampled_v_wrong : { Params.defaults with memType := [(0x56, 2)] }.wf = false := by decide
/-- The ill-formed command words of 40_host_interface.md R130 and of each condition of 30_encoding.md R96. -/
theorem test_wf_words : [0x0000, 0x0007, 0x000F, 0x0011, 0x0012, 0x0101, 0xFF06].map cmdWordWf =
    [false, false, false, false, false, false, false] := by decide
theorem test_wf_word_fold : [0x0102, 0xFF02, 0x0006].map cmdWordWf = [true, true, true] := by decide

/-! ## Decoding: words written out from 30_encoding.md R80, R88, R93 and R95 -/

theorem test_decode_csumClear : decodeTableWord 16 0x0001 = some .csumClear := by decide
theorem test_decode_csumFold : decodeTableWord 16 0x5A02 = some (.csumFold 0x5A) := by decide
theorem test_decode_hdrBuildRd : decodeTableWord 16 0x0003 = some .hdrBuildRd := by decide
theorem test_decode_hdrBuildWr : decodeTableWord 16 0x0004 = some .hdrBuildWr := by decide
theorem test_decode_testConnection : decodeTableWord 16 0x0005 = some .testConnection := by decide
theorem test_decode_readValue : decodeTableWord 16 0x0006 = some .readValue := by decide
theorem test_decode_opRead : decodeTableWord 8 0x30 = some .opRead := by decide
theorem test_decode_opWrite : decodeTableWord 8 0x38 = some .opWrite := by decide
theorem test_decode_soh : decodeTableWord 8 0x01 = some .soh := by decide
theorem test_decode_stx : decodeTableWord 8 0x02 = some .stx := by decide
theorem test_decode_etx : decodeTableWord 8 0x03 = some .etx := by decide
theorem test_decode_eot : decodeTableWord 8 0x04 = some .eot := by decide
theorem test_decode_enq : decodeTableWord 8 0x05 = some .enq := by decide
theorem test_decode_ack : decodeTableWord 8 0x06 = some .ack := by decide
theorem test_decode_nak : decodeTableWord 8 0x15 = some .nak := by decide
theorem test_decode_etb : decodeTableWord 8 0x17 = some .etb := by decide
theorem test_decode_refused : [decodeTableWord 16 0x0000, decodeTableWord 16 0x0101, decodeTableWord 8 0x31,
    decodeTableWord 12 0x0001] = [none, none, none, none] := by decide
/-- The word of V1's CSUM_FOLD 5A (95_test_vectors.md 2.1). -/
theorem test_encode_csumFold : encode (.csumFold 0x5A) = .cmd 0x5A02 := by decide

/-! ## The checksum, hexadecimal fields and the encoder -/

/-- S2. -/
theorem test_fold_span : fold [0x30, 0x31, 0x30, 0x31, 0x30, 0x31, 0x30, 0x30, 0x30, 0x30, 0x30, 0x34, 0x30, 0x30, 0x17] =
    0x12 := by decide
/-- V10. -/
theorem test_hexchar : [0, 9, 10, 15].map hexchar = [0x30, 0x39, 0x41, 0x46] := by decide
/-- V11, V14. -/
theorem test_hexField : hexField 4 0x100 ++ hexField 2 0x9C = [0x30, 0x31, 0x30, 0x30, 0x39, 0x43] := by decide
/-- V24: client 15, write, "V2000", size 256. -/
theorem test_header_v24 :
    (valueOf (encodeHeader 0x8 { prepared [0x56, 0x32, 0x30, 0x30, 0x30] 256 with
      cfg := { Params.defaults with clientId := 15 } })).map Vector.toList =
    some [0x01, 0x30, 0x46, 0x38, 0x31, 0x30, 0x34, 0x30, 0x30, 0x30, 0x31, 0x30, 0x30, 0x30, 0x30, 0x17, 0x6D] := by
  decide
/-- V31: 16 characters, "V000000000000177", size 2. -/
theorem test_header_v31 :
    (valueOf (encodeHeader 0x0 (prepared
      [0x56, 0x30, 0x30, 0x30, 0x30, 0x30, 0x30, 0x30, 0x30, 0x30, 0x30, 0x30, 0x30, 0x31, 0x37, 0x37] 2))).map
      Vector.toList =
    some [0x01, 0x30, 0x31, 0x30, 0x31, 0x30, 0x30, 0x37, 0x46, 0x30, 0x30, 0x30, 0x32, 0x30, 0x30, 0x17, 0x64] := by
  decide
/-- V40 to V47. -/
theorem test_header_errors :
    [[], [0x58, 0x34, 0x30, 0x30], [0x76, 0x34, 0x30, 0x30], [0x58, 0x39], [0x56], [0x56, 0x34, 0x30, 0x38],
      [0x56, 0x20, 0x34, 0x30, 0x30], [0x56, 0x32, 0x30, 0x30, 0x30, 0x30, 0x30]].map
      (fun str => errorOf (encodeHeader 0x0 (prepared str 4))) =
    [.unknownMemoryType, .unknownMemoryType, .unknownMemoryType, .unknownMemoryType, .invalidAddress, .invalidAddress,
      .invalidAddress, .invalidAddress] := by decide

/-! ## One step of each instruction -/

/-- V4. -/
theorem test_csumClear : (nextOf (exec .csumClear { State.reset with csum := 0x5A })).map (·.csum) = some 0x00 := by
  decide
/-- V1, the second fold. -/
theorem test_csumFold : (nextOf (exec (.csumFold 0xA5) { State.reset with csum := 0x5A })).map (·.csum) = some 0xFF := by
  decide
/-- V20, with its STATUS. -/
theorem test_hdrBuildRd : (nextOf (exec .hdrBuildRd v400)).map (fun t => (t.hdr, statusWord t)) =
    some (v20, 0x000A) := by decide
/-- V48, second part: HDR keeps V20's bytes, STATUS 0x0042. -/
theorem test_hdrBuildRd_error :
    (nextOf (exec .hdrBuildRd { prepared [0x56, 0x34, 0x30, 0x38] 4 with hdr := v20, hdrValid := true })).map
      (fun t => (t.hdr, statusWord t)) = some (v20, 0x0042) := by decide
/-- V26, bytes 3 and 16. -/
theorem test_hdrBuildWr : (nextOf (exec .hdrBuildWr v400)).map (fun t => (t.hdr[3], t.hdr[16])) =
    some (0x38, 0x1A) := by decide
/-- 41_handshake.md R142: ENQ_TX offers 0x4E. -/
theorem test_testConnection :
    (nextOf (exec .testConnection { State.reset with err := .timeout, done := true })).map
      (fun t => (statusWord t, txByteOut t)) = some (0x0101, 0x4E) := by decide
/-- Program P2, the first STATUS; a valid header of an earlier command is no longer valid. -/
theorem test_readValue : (nextOf (exec .readValue (inPhase .closed 0))).map (fun t => (statusWord t, t.plLen)) =
    some (0x0101, 0) := by decide
/-- V99: a command during the transaction only sets HOSTERR. -/
theorem test_readValue_busy : nextOf (exec .readValue midResponse) = some { midResponse with hostErr := true } := by
  decide
/-- 45_read_transaction.md R222: HDR[3] = '0' accepted. -/
theorem test_opRead : (nextOf (exec .opRead (inPhase .hdrTx 3))).map (fun t => (t.txStream, t.idx)) =
    some ([0x30], 4) := by decide
/-- 44_response_parser.md R203: 0x38 as a data byte. -/
theorem test_opWrite : (nextOf (exec .opWrite midResponse)).map (fun t => (t.payload, t.rcsum)) =
    some ([(0, 0x12), (1, 0x38)], 0x2A) := by decide
/-- 45_read_transaction.md R222: the first header byte. -/
theorem test_soh : (nextOf (exec .soh (inPhase .hdrTx 0))).map (fun t => (t.txStream, t.idx)) = some ([0x01], 1) := by
  decide
/-- 44_response_parser.md R202, its example. -/
theorem test_stx : (nextOf (exec .stx (inPhase .respRx 0))).map (fun t => (t.respStx, t.idx)) = some (0x02, 1) := by
  decide
/-- 44_response_parser.md R204, its example. -/
theorem test_etx : (nextOf (exec .etx { inPhase .respRx 5 with rcsum := 0x08 })).map (fun t => (t.respEtx, t.rcsum)) =
    some (0x03, 0x0B) := by decide
/-- 45_read_transaction.md R226. -/
theorem test_eot_received : (nextOf (exec .eot (inPhase .eotRx 0))).map (·.phase) = some .eotTx := by decide
/-- 45_read_transaction.md R228. -/
theorem test_eot_sent : (nextOf (exec .eot (inPhase .eotTx 0))).map (fun t => (t.phase, t.done)) =
    some (.closed, true) := by decide
/-- 41_handshake.md R143, its example. -/
theorem test_enq : (nextOf (exec .enq (inPhase .enqTx 2))).map (fun t => (t.phase, t.idx)) = some (.enqRx, 0) := by
  decide
/-- V50: the third reply byte of TEST_CONNECTION, STATUS 0x0902. -/
theorem test_ack : (nextOf (exec .ack { State.reset with phase := .enqRx, idx := 2, echo := #v[0x4E, 0x21, 0x00] })).map
    (fun t => (statusWord t, t.echo)) = some (0x0902, #v[0x4E, 0x21, 0x06]) := by decide
/-- Program P2: the third reply byte of READ_VALUE builds the header, STATUS 0x0309. -/
theorem test_ack_readValue :
    (nextOf (exec .ack { v400 with phase := .enqRx, idx := 2, opk := .readValue, echo := #v[0x4E, 0x21, 0x00] })).map
      (fun t => (statusWord t, t.hdr)) = some (0x0309, v20) := by decide
/-- V80: STATUS 0x007A. -/
theorem test_nak : (nextOf (exec .nak (inPhase .ackRx 0))).map statusWord = some 0x007A := by decide
/-- V51: STATUS 0x0012. -/
theorem test_nak_handshake :
    (nextOf (exec .nak { State.reset with phase := .enqRx, idx := 2, echo := #v[0x4E, 0x21, 0x00] })).map statusWord =
    some 0x0012 := by decide
/-- 45_read_transaction.md R222: HDR[15] accepted, HDR[16] offered. -/
theorem test_etb : (nextOf (exec .etb (inPhase .hdrTx 15))).map txByteOut = some 0x12 := by decide

/-! ## Steps that are no row of the table -/

/-- V60's last frame byte, a byte outside the table, as an RX event. -/
theorem test_last_byte :
    (nextOf (step { withEvent .rx (inPhase .respRx 6) with
      respStx := 0x02, respEtx := 0x03, rcsum := 0x0B, rxStream := [0x0B, 0x04] })).map
      (fun t => (t.phase, t.stxOk, t.etxOk, t.csumOk, t.rxStream)) = some (.ackTx, true, true, true, [0x04]) := by
  decide
/-- V71: strict mode, a wrong checksum, STATUS 0x309A. -/
theorem test_last_byte_strict :
    (nextOf (step (strictly { withEvent .rx (inPhase .respRx 6) with
      respStx := 0x02, respEtx := 0x03, rcsum := 0x0B, rxStream := [0x00] }))).map statusWord = some 0x309A := by decide
/-- V69: SHORT_READ with one data byte. -/
theorem test_short_read : (nextOf (step (withEvent .rxTimeout midResponse))).map (fun t => (t.err, t.phase, t.plLen)) =
    some (.shortRead, .idle, 1) := by decide
/-- V56: no effect of a timeout while sending. -/
theorem test_timeout_sending :
    (nextOf (step (withEvent .rxTimeout { State.reset with phase := .enqTx, idx := 1 }))).map statusWord =
    some 0x0101 := by decide
/-- V90 and V91: CONFIG. -/
theorem test_config : [configWord State.reset, configWord { State.reset with
    cfg := { clientId := 15, memType := [(0x56, 1)], strictResponse := true, respCsumSpan := .data } }] =
    [0x0021, 0x001F] := by decide
/-- V97, its third write. -/
theorem test_addrChar_illegal : (nextOf (step (withEvent (.regWr 0x10 0x100) State.reset))).map statusWord =
    some 0x0004 := by decide
/-- V98: a write while busy. -/
theorem test_write_busy :
    (nextOf (step (withEvent (.regWr 0x04 9) { State.reset with phase := .enqRx, idx := 1 }))).map
      (fun t => (t.size, statusWord t)) = some (0, 0x0205) := by decide
/-- V100, k = 0 and k = 1. -/
theorem test_plData : [plData midResponse, plData { midResponse with plPtr := 1 }] = [0x0012, 0x0000] := by
  decide
/-- V111: after a RESET, PL_DATA reads 0 at PL_PTR = 0. -/
theorem test_reset_plData : (nextOf (step (withEvent (.reset goodParams) midResponse))).map
    (fun t => (t.plLen, plData t)) = some (0, 0x0000) := by decide
/-- 44_response_parser.md R203 with a data byte equal to what an unlisted byte reads as: it is stored, over an old byte
too, and the buffer keeps its canonical form. -/
theorem test_write_zero_byte : (Memory.write [(0, 0x12), (1, 0x34)] 0 0x00, Memory.read (Memory.write [(0, 0x12)] 0 0) 0,
    Memory.write [(1, 0x34)] 0 0x12) = ([(1, 0x34)], 0x00, [(0, 0x12), (1, 0x34)]) := by decide
/-- V110. -/
theorem test_reset : (nextOf (step (withEvent (.reset goodParams) (inPhase .hdrTx 2)))).map
    (fun t => (statusWord t, txValid t, t.hdr[2], t.cfg.clientId)) = some (0, false, 0, 15) := by decide

/-! ## Witnesses: states and operands that meet the hypotheses of each statement -/

/-- Idle, with an event list of one event. -/
def idleWith (e : Event) : State := withEvent e State.reset

theorem test_witness_RejectedCommandWord_busy :
    let s := withEvent (.regWr 0x00 0x0006) midResponse
    s.events = [.regWr 0x00 0x0006] ∧ busy s = true := by decide
theorem test_witness_RejectedCommandWord_ill :
    (idleWith (.regWr 0x00 0x0007)).events = [.regWr 0x00 0x0007] ∧ illFormedWord 0x0007 ∧ illFormedWord 0x0011 ∧
      illFormedWord 0x0101 ∧ ¬ illFormedWord 0xFF02 := by
  unfold illFormedWord; decide
theorem test_witness_HexFieldDigits : (0xFFFF < 16 ^ 4 ∧ 3 < 4) ∧ 0 < 16 ^ 0 := by decide

theorem test_witness_StepRuns_command :
    fetch (idleWith (.regWr 0x00 0xFF02)) = some (.cmd 0xFF02) ∧ decodeTableWord 16 0xFF02 = some (.csumFold 0xFF) ∧
      decode (.cmd 0xFF02) = .ok (.csumFold 0xFF) := ⟨by decide, by decide, rfl⟩
theorem test_witness_StepRuns_sent :
    fetch (withEvent .txAcc (inPhase .hdrTx 15)) = some (.link 0x17) ∧ decode (.link 0x17) = .ok .etb := ⟨by decide, rfl⟩
theorem test_witness_StepRuns_received :
    fetch { withEvent .rx midResponse with rxStream := [0x38] } = some (.link 0x38) ∧
      decode (.link 0x38) = .ok .opWrite := ⟨by decide, rfl⟩
theorem test_witness_PlacedWord :
    encode .readValue = .cmd 0x0006 ∧ encode .ack = .link 0x06 ∧ rxReady midResponse = true ∧
      txByte (inPhase .ackTx 0) = some 0x06 ∧ rxReady State.reset = false ∧ txByte State.reset = none := by decide

theorem test_witness_EventNotEnabled_txAcc :
    (idleWith .txAcc).events = [.txAcc] ∧ txValid (idleWith .txAcc) = false := by decide
theorem test_witness_EventNotEnabled_rx :
    let s := { idleWith .rx with rxStream := [0x06] }
    s.events = [.rx] ∧ rxReady s = false := by decide
theorem test_witness_EventNotEnabled_rx_no_byte :
    let s := withEvent .rx midResponse
    s.events = [.rx] ∧ rxReady s = true ∧ s.rxStream = [] := by decide
theorem test_witness_EventNotEnabled_none : State.reset.events = [] := by decide
theorem test_witness_PortEventTransfersOneByte_rx :
    let s := { withEvent .rx midResponse with rxStream := [0xFF, 0x04] }
    s.events = [.rx] ∧ rxReady s = true ∧ s.rxStream = 0xFF :: [0x04] := by decide
theorem test_witness_PortEventTransfersOneByte_txAcc :
    let s := withEvent .txAcc (inPhase .hdrTx 16)
    s.events = [.txAcc] ∧ txByte s = some 0x12 := by decide
theorem test_witness_PortOutputsFollowPhase :
    ((inPhase .enqTx 2).phase = .enqTx ∧ (inPhase .enqTx 2).idx.toNat = 2) ∧
      ((inPhase .hdrTx 16).phase = .hdrTx ∧ (inPhase .hdrTx 16).idx.toNat = 16) ∧ (inPhase .ackTx 0).phase = .ackTx ∧
      (inPhase .eotTx 0).phase = .eotTx ∧ txValid State.reset = false := by decide

/-- Each index clause at the ends of its range, with the value by 10_state.md R41. -/
theorem test_witness_RegisterRead :
    [0x00, 0x01, 0x02, 0x03, 0x04, 0x05, 0x06, 0x08, 0x09, 0x0A, 0x0B, 0x0C, 0x0D, 0x0F, 0x10, 0x1F, 0x20, 0x30, 0x31,
      0xFF].map (fun i => (nextOf (step (withEvent (.regRd i) { midResponse with echo := #v[0x4E, 0x21, 0x06] }))).map
        (·.regRdata)) =
    [0, 0x0509, 0x0021, 0, 4, 4, 0, 1, 2, 0, 0, 0x12, 0x4E, 0x06, 0x56, 0, 0x01, 0x12, 0, 0].map some := by decide
theorem test_witness_RegisterRead_payload :
    let s := withEvent (.regRd 0x07) midResponse
    s.events = [.regRd 0x07] ∧ s.plPtr.toNat < s.plLen.toNat ∧ Memory.read s.payload s.plPtr.toNat = 0x12 := by
  decide
theorem test_witness_RegisterRead_payload_end :
    let s := withEvent (.regRd 0x07) { midResponse with plPtr := 1 }
    s.events = [.regRd 0x07] ∧ s.plLen.toNat ≤ s.plPtr.toNat := by decide
theorem test_witness_RegisterRead_buffers :
    midResponse.echo.toList[2]? = some 0x00 ∧ midResponse.addrChar.toList[15]? = some 0x00 ∧
      midResponse.hdr.toList[16]? = some 0x12 := by decide

theorem test_witness_RegisterWrite_busy :
    let s := withEvent (.regWr 0x04 5) midResponse
    s.events = [.regWr 0x04 5] ∧ busy s = true := by decide
/-- The next state of a host write from reset. -/
def afterWrite (i : Byte) (v : Word) : Option State := nextOf (step (idleWith (.regWr i v)))
theorem test_witness_RegisterWrite_idle : busy State.reset = false := by decide
/-- Refused: an ill-formed command, values just too large, and the ends of the read-only and reserved ranges. -/
theorem test_witness_RegisterWrite_ignored :
    [((0x00 : Byte), (0 : Word)), (0x05, 17), (0x10, 0x100), (0x1F, 0x100), (0x01, 0), (0x03, 0), (0x07, 0), (0x0F, 0),
      (0x20, 0), (0xFF, 0)].all
      (fun e => afterWrite e.1 e.2 = some { State.reset with hostErr := true }) = true := by decide
/-- Accepted: the largest values. -/
theorem test_witness_RegisterWrite_operands :
    ((afterWrite 0x04 0xFFFF).map (·.size), (afterWrite 0x05 16).map (·.addrLen),
      (afterWrite 0x06 0xFFFF).map (·.plPtr)) = (some 0xFFFF, some 16, some 0xFFFF) := by decide
theorem test_witness_RegisterWrite_chars :
    ((afterWrite 0x10 0xFF).map (fun t => t.addrChar[0]), (afterWrite 0x1F 0xFF).map (fun t => t.addrChar[15])) =
      (some 0xFF, some 0xFF) := by decide
theorem test_witness_RegisterWrite_decodes : decodeCmd 0x0001 = .ok .csumClear ∧
    decodeCmd 0x0000 = .error .reservedCode := ⟨rfl, rfl⟩
theorem test_witness_Reserved :
    0x31 ≤ (0x31 : Byte).toNat ∧ 0x31 ≤ (0xFF : Byte).toNat ∧ (idleWith (.regRd 0x31)).events = [.regRd 0x31] ∧
      (withEvent (.regWr 0xFF 1) midResponse).events = [.regWr 0xFF 1] := by decide

theorem test_witness_AcceptanceClearsResults :
    let s := { inPhase .closed 0 with done := true, err := .timeout, hostErr := true }
    busy s = false ∧ [Instr.csumClear, .csumFold 0xFF, .hdrBuildRd, .hdrBuildWr, .testConnection, .readValue].all
      isCommand = true := by decide
/-- A step that sets HOSTERR, one that keeps it, one that clears it. -/
theorem test_witness_HosterrIsSticky :
    [idleWith (.regWr 0x03 5), { idleWith (.regWr 0x04 5) with hostErr := true },
      { idleWith (.regWr 0x00 1) with hostErr := true }].map (fun s => (nextOf (step s)).map (·.hostErr)) =
    [some true, some true, some false] := by decide
/-- A step that changes the parameters, and one that changes an operand. -/
theorem test_witness_OperandsChange :
    ((nextOf (step (idleWith (.reset goodParams)))).map (·.cfg) ≠ some State.reset.cfg) ∧
      (nextOf (step (idleWith (.regWr 0x04 5)))).map (·.size) = some 5 := by decide
theorem test_witness_RxTimeout :
    [Phase.enqRx, .ackRx, .eotRx, .respRx, .idle, .enqTx].map (fun p =>
      let s := withEvent .rxTimeout (inPhase p 0)
      (s.events, s.phase)) =
    [Phase.enqRx, .ackRx, .eotRx, .respRx, .idle, .enqTx].map (fun p => ([.rxTimeout], p)) := by decide

theorem test_witness_FoldLaws : [0x01, 0x02].Perm [0x02, (0x01 : Byte)] ∧ 7 < 8 := by decide
theorem test_witness_command_not_busy : busy State.reset = false ∧ busy (inPhase .link 0) = false := by decide
theorem test_witness_ClearThenFolds :
    let s : State := { State.reset with
      csum := 0x37, events := [.regWr 0x00 0x0001, .regWr 0x00 0x0102, .regWr 0x00 0xFF02, .rx] }
    busy s = false ∧
      s.events = .regWr 0x00 0x0001 :: ([0x01, 0xFF].map (fun b => Event.regWr 0x00 (foldWord b)) ++ [.rx]) := by decide
theorem test_witness_AccumulatorIsSeparate :
    let s := withEvent (.regWr 0x00 0x0003) v400
    (∀ w, fetch s = some w → decode w ≠ .ok .csumClear ∧ ∀ b, decode w ≠ .ok (.csumFold b)) ∧ ¬ nextIsReset s ∧
      ¬ nextIsRead s := by
  refine ⟨fun w h => ?_, ?_, ?_⟩
  · have h' : w = .cmd 0x0003 := by
      have : fetch (withEvent (.regWr 0x00 0x0003) v400) = some (.cmd 0x0003) := by decide
      exact (Option.some.inj (this.symm.trans h)).symm
    have hd : decode w = .ok .hdrBuildRd := by subst h'; rfl
    constructor
    · rw [hd]; simp
    · intro b; rw [hd]; simp
  · rintro ⟨p, es, h⟩; simp [withEvent] at h
  · rintro ⟨p, es, h⟩; simp [withEvent] at h

/-! The address strings of the encoder's clauses: empty, unknown prefix, no digits, a character just below and just above
the octal digits, the largest value, one more, and a value that is encoded. -/

theorem test_witness_Encoder_empty : (prepared [] 4).addrChar.toList.take (prepared [] 4).addrLen.toNat = [] := by decide
theorem test_witness_Encoder_unknown_prefix :
    (prepared [0x58, 0x34] 4).addrChar.toList.take (prepared [0x58, 0x34] 4).addrLen.toNat = 0x58 :: [0x34] ∧
      (prepared [0x58, 0x34] 4).cfg.memType.lookup 0x58 = none := by decide
theorem test_witness_Encoder_no_digits :
    (prepared [0x56] 4).addrChar.toList.take (prepared [0x56] 4).addrLen.toNat = 0x56 :: [] ∧
      (prepared [0x56] 4).cfg.memType.lookup 0x56 = some 1 := by decide
theorem test_witness_Encoder_not_octal :
    (prepared [0x56, 0x38] 4).addrChar.toList.take (prepared [0x56, 0x38] 4).addrLen.toNat = 0x56 :: [0x38] ∧
      (∃ c ∈ [(0x38 : Byte)], c.toNat < 0x30 ∨ 0x37 < c.toNat) ∧
      (∃ c ∈ [(0x2F : Byte)], c.toNat < 0x30 ∨ 0x37 < c.toNat) := by decide
theorem test_witness_Encoder_largest_and_one_more :
    let digits : List Byte := [0x31, 0x37, 0x37, 0x37, 0x37, 0x37]
    let more : List Byte := [0x32, 0x30, 0x30, 0x30, 0x30, 0x30]
    (prepared (0x56 :: digits) 0xFFFF).addrChar.toList.take (prepared (0x56 :: digits) 0xFFFF).addrLen.toNat =
        0x56 :: digits ∧
      digits ≠ [] ∧ (∀ c ∈ digits, 0x30 ≤ c.toNat ∧ c.toNat ≤ 0x37) ∧
      Nat.ofDigits 8 (digits.map (fun c => c.toNat - 0x30)).reverse = 0xFFFF ∧
      (∀ c ∈ more, 0x30 ≤ c.toNat ∧ c.toNat ≤ 0x37) ∧
      Nat.ofDigits 8 (more.map (fun c => c.toNat - 0x30)).reverse = 0x10000 := by decide
/-- Both outcomes of the encoder, for EncodedHeaderHasShape and HdrBuildResult. -/
theorem test_witness_HdrBuildResult :
    busy v400 = false ∧ encodeHeader 0x0 v400 = .ok v20 ∧ encodeHeader 0x0 (prepared [] 4) = .error .unknownMemoryType ∧
      busy (prepared [] 4) = false := ⟨by decide, rfl, rfl, by decide⟩
/-- A step whose state had SIZE_OVERFLOW (which no run reaches) and keeps it. -/
theorem test_witness_SizeOverflow :
    (nextOf (step { State.reset with err := .sizeOverflow })).map (·.err) = some .sizeOverflow := by decide

/-- The header v20 has the shape of a header. -/
theorem v20_shape : HeaderShape v20.toList where
  length := by decide
  soh := by decide
  etb := by decide
  body := by decide
  client := by decide
  master0 := by decide
  master1 := by decide
  checksum := by decide
  selfInverse := by decide

theorem test_witness_StepKeepsHeaderWhenValid :
    HeaderWhenValid (withEvent .txAcc (inPhase .hdrTx 3)) ∧
      (nextOf (step (withEvent .txAcc (inPhase .hdrTx 3)))).isSome = true :=
  ⟨⟨fun _ => v20_shape, fun _ => by decide⟩, by decide⟩

theorem test_witness_EnquiryByteAccepted :
    (inPhase .enqTx 0).phase = .enqTx ∧
      [0x4E, 0x20 + (inPhase .enqTx 0).cfg.clientId.setWidth 8, 0x05][(inPhase .enqTx 0).idx.toNat]? = some 0x4E ∧
      [0x4E, 0x20 + (inPhase .enqTx 2).cfg.clientId.setWidth 8, 0x05][(inPhase .enqTx 2).idx.toNat]? = some 0x05 := by
  decide
/-- A state in ENQ_RX after two right reply bytes. -/
def twoReplied (k : LinkCommand) (str : List Byte) : State :=
  { prepared str 4 with phase := .enqRx, idx := 2, opk := k, echo := #v[0x4E, 0x21, 0x00] }
theorem test_witness_HandshakeReply_first :
    (inPhase .enqRx 0).phase = .enqRx ∧ (inPhase .enqRx 0).idx.toNat < 2 ∧ (inPhase .enqRx 1).idx.toNat < 2 := by decide
theorem test_witness_HandshakeReply_third :
    let s := twoReplied .testConnection []
    s.phase = .enqRx ∧ s.idx.toNat = 2 ∧ s.opk = .testConnection ∧
      [s.echo[0], s.echo[1], 0x06] = [0x4E, 0x20 + s.cfg.clientId.setWidth 8, 0x06] ∧
      [s.echo[0], s.echo[1], 0x15] ≠ [0x4E, 0x20 + s.cfg.clientId.setWidth 8, 0x06] := by decide
theorem test_witness_HandshakeReply_readValue :
    let s := twoReplied .readValue [0x56, 0x34, 0x30, 0x30]
    let t := twoReplied .readValue []
    (s.phase = .enqRx ∧ s.idx.toNat = 2 ∧ s.opk = .readValue ∧ encodeHeader 0x0 s = .ok v20) ∧
      (t.phase = .enqRx ∧ t.idx.toNat = 2 ∧ t.opk = .readValue ∧ encodeHeader 0x0 t = .error .unknownMemoryType) :=
  ⟨⟨rfl, rfl, rfl, rfl⟩, ⟨rfl, rfl, rfl, rfl⟩⟩
theorem test_witness_TestConnectionExchange :
    let s : State := { State.reset with
      events := [.regWr 0x00 0x0005, .txAcc, .txAcc, .txAcc, .rx, .rx, .rx], rxStream := [0x4E, 0x21, 0x06, 0x04] }
    busy s = false ∧ s.events = .regWr 0x00 0x0005 :: .txAcc :: .txAcc :: .txAcc :: .rx :: .rx :: .rx :: [] ∧
      s.rxStream = 0x4E :: 0x21 :: 0x06 :: [0x04] ∧ 0x21 = 0x20 + s.cfg.clientId.setWidth 8 := by decide

/-- The boundaries of the response positions: IDX 0, 1, SIZE, SIZE + 1, SIZE + 2. -/
theorem test_witness_ResponseByte :
    (inPhase .respRx 0).phase = .respRx ∧ (inPhase .respRx 0).idx.toNat = 0 ∧
      (1 ≤ (inPhase .respRx 1).idx.toNat ∧ (inPhase .respRx 1).idx.toNat ≤ (inPhase .respRx 1).size.toNat) ∧
      (1 ≤ (inPhase .respRx 4).idx.toNat ∧ (inPhase .respRx 4).idx.toNat ≤ (inPhase .respRx 4).size.toNat) ∧
      (inPhase .respRx 5).idx.toNat = (inPhase .respRx 5).size.toNat + 1 ∧
      (inPhase .respRx 6).idx.toNat = (inPhase .respRx 6).size.toNat + 2 := by decide
theorem test_witness_ResponseLast_good :
    let s := strictly { inPhase .respRx 6 with respStx := 0x02, respEtx := 0x03, rcsum := 0x0B }
    s.phase = .respRx ∧ s.idx.toNat = s.size.toNat + 2 ∧ s.cfg.strictResponse = true ∧
      ¬ (s.respStx ≠ 0x02 ∨ s.respEtx ≠ 0x03 ∨ s.rcsum ≠ 0x0B) := by decide
theorem test_witness_ResponseLast_bad :
    let s := { inPhase .respRx 6 with respStx := 0x41, respEtx := 0x03, rcsum := 0x0B }
    s.phase = .respRx ∧ s.idx.toNat = s.size.toNat + 2 ∧ s.cfg.strictResponse = false ∧
      (strictly s).cfg.strictResponse = true ∧ (s.respStx ≠ 0x02 ∨ s.respEtx ≠ 0x03 ∨ s.rcsum ≠ 0x0B) := by decide
theorem test_witness_Lenient :
    let s := { inPhase .respRx 6 with respStx := 0x02 }
    let t := { inPhase .respRx 6 with respStx := 0x41, rcsum := 0x99 }
    s.cfg.strictResponse = false ∧ withoutReports s = withoutReports t ∧ s.phase = .respRx ∧
      s.idx.toNat = s.size.toNat + 2 := by decide
theorem test_witness_Lenient_step :
    let s := withEvent .rx { midResponse with rxStream := [0x34] }
    let t := { s with rcsum := 0x00 }
    s.cfg.strictResponse = false ∧ withoutReports s = withoutReports t ∧ ¬ nextIsRead s := by
  refine ⟨by decide, by decide, ?_⟩
  rintro ⟨i, es, h⟩; simp [withEvent] at h

/-- The invariant holds in the middle of a response. -/
theorem midResponse_inv (es : List Event) (bs : List Byte) : Inv { midResponse with events := es, rxStream := bs } where
  idxFrame := by show (2 : BitVec 17).toNat ≤ (4 : Word).toNat + 2; decide
  addrLen := by show midResponse.addrLen.toNat ≤ 16; decide
  payloadWf := by show Memory.wf midResponse.payload; decide
  busyNotDone := by show busy midResponse = true → midResponse.done = false ∧ midResponse.err = .none; decide
  notDone := by
    show midResponse.done = false → busy midResponse = false → midResponse.phase = .idle ∧ midResponse.err = .none
    decide
  command := ⟨rfl, rfl⟩
  progress := by
    show midResponse.plLen.toNat = min (midResponse.idx.toNat - 1) midResponse.size.toNat
    decide
  cleared := by
    intro h
    exact absurd (show midResponse.phase = .hdrTx ∨ midResponse.phase = .ackRx ∨
      ((midResponse.phase = .enqTx ∨ midResponse.phase = .enqRx) ∧ midResponse.opk = .readValue) from h) (by decide)
  cfgWf := by show midResponse.cfg.wf = true; decide
  noSizeOverflow := by show midResponse.err ≠ .sizeOverflow; decide
  strictOnly := by show midResponse.err = .badResponseFrame → midResponse.cfg.strictResponse = true; decide

theorem test_witness_StepKeepsRcsumFold :
    let s := { midResponse with events := [.rx], rxStream := [0x34] }
    Inv s ∧ RcsumIsFold s ∧ (nextOf (step s)).map (·.rcsum) = some 0x26 :=
  ⟨midResponse_inv _ _, fun _ => by decide, by decide⟩
theorem test_witness_StepKeepsMachineInvariant :
    let s := { midResponse with events := [.rx], rxStream := [0x34] }
    Inv s ∧ (nextOf (step s)).map (·.plLen) = some 2 := ⟨midResponse_inv _ _, by decide⟩
theorem test_witness_StepFromInvariantIsSafe : Inv { midResponse with events := [.rx], rxStream := [0x34] } :=
  midResponse_inv _ _
/-- A state and one that differs from it in two bytes at and above PL_LEN. -/
theorem test_witness_UnwrittenPayload :
    let s := { midResponse with events := [.rx], rxStream := [0x34] }
    let t := { s with payload := [(0, 0x12), (1, 0x99), (7, 0x77)] }
    Inv s ∧ s ≠ t ∧ agreeButUnwritten s t ∧ (nextOf (step s)).isSome = true :=
  ⟨midResponse_inv _ _, by decide, ⟨rfl, by decide⟩, by decide⟩
/-- The ends of a link command: an error and a RESET. -/
theorem test_witness_LinkCommandEnds_error :
    let s := { midResponse with events := [.rxTimeout], rxStream := [] }
    Inv s ∧ busy s = true ∧ (nextOf (step s)).map (fun t => (busy t, t.err)) = some (false, .shortRead) :=
  ⟨midResponse_inv _ _, by decide, by decide⟩
theorem test_witness_LinkCommandEnds_reset :
    let s := { midResponse with events := [.reset goodParams], rxStream := [] }
    Inv s ∧ busy s = true ∧ (nextOf (step s)).map busy = some false := ⟨midResponse_inv _ _, by decide, by decide⟩

theorem test_witness_HeaderByteAccepted :
    ((inPhase .hdrTx 0).phase = .hdrTx ∧ (inPhase .hdrTx 0).hdr.toList[(inPhase .hdrTx 0).idx.toNat]? = some 0x01) ∧
      (inPhase .hdrTx 16).hdr.toList[(inPhase .hdrTx 16).idx.toNat]? = some 0x12 := by decide
theorem test_witness_one_byte_phases :
    (inPhase .ackTx 0).phase = .ackTx ∧ (inPhase .eotTx 0).phase = .eotTx ∧ (inPhase .ackRx 0).phase = .ackRx ∧
      (inPhase .eotRx 0).phase = .eotRx ∧ (0x15 : Byte) ≠ 0x06 ∧ (0x06 : Byte) ≠ 0x04 := by decide
theorem test_witness_LinkRows :
    ((inPhase .hdrTx 0).idx = 0 ∧ (inPhase .hdrTx 0).hdr[0] = 0x01) ∧
      ((inPhase .hdrTx 3).idx = 3 ∧ (inPhase .hdrTx 3).hdr[3] = 0x30) ∧
      ((inPhase .hdrTx 15).idx = 15 ∧ (inPhase .hdrTx 15).hdr[15] = 0x17) ∧ (inPhase .enqTx 2).idx = 2 ∧
      (Instr.opWrite, 0x38) ∈ linkRows := by decide
theorem test_witness_NoTransfer : rxReady State.reset = false ∧ txByte State.reset ≠ some 0x06 ∧
    rxReady (inPhase .ackTx 0) = false ∧ txByte (inPhase .ackTx 0) ≠ some 0x15 := by decide

/-- "V400", size 4, with the events and the partner's bytes of program P2, the last three frame bytes given. -/
def readReady (etx ck : Byte) : State :=
  { v400 with
    events := readEvents 4
    rxStream := [0x4E, 0x21, 0x06, 0x06, 0x02, 0x12, 0x34, 0x56, 0x78, etx, ck, 0x04] }
/-- Lenient, with a wrong ETX and a wrong checksum byte. -/
theorem test_witness_SuccessfulRead_lenient :
    let s := readReady 0x41 0x99
    busy s = false ∧ encodeHeader 0x0 s = .ok v20 ∧ [0x12, 0x34, 0x56, (0x78 : Byte)].length = s.size.toNat ∧
      s.cfg.strictResponse = false ∧ s.events = readEvents s.size.toNat ++ [] ∧
      s.rxStream = [0x4E, 0x20 + s.cfg.clientId.setWidth 8, 0x06] ++ [0x06] ++
        ([0x02] ++ [0x12, 0x34, 0x56, 0x78] ++ [0x41, 0x99]) ++ [0x04] ++ [] :=
  ⟨by decide, rfl, by decide, by decide, by decide, by decide⟩
theorem test_witness_SuccessfulRead_strict :
    let s := strictly (readReady 0x03 0x0B)
    busy s = false ∧ encodeHeader 0x0 s = .ok v20 ∧ [0x12, 0x34, 0x56, (0x78 : Byte)].length = s.size.toNat ∧
      s.cfg.strictResponse = true ∧ (0x0B : Byte) = fold (responseSpan s.cfg [0x12, 0x34, 0x56, 0x78] 0x03) ∧
      s.events = readEvents s.size.toNat ++ [] ∧
      s.rxStream = [0x4E, 0x20 + s.cfg.clientId.setWidth 8, 0x06] ++ [0x06] ++
        ([0x02] ++ [0x12, 0x34, 0x56, 0x78] ++ [0x03, 0x0B]) ++ [0x04] ++ [] :=
  ⟨by decide, rfl, by decide, by decide, by decide, by decide, by decide⟩
theorem test_witness_ReadValueForgets :
    let s := v400
    let t := { v400 with phase := .closed, idx := 7, err := .timeout, done := true, hdrValid := true, plLen := 4 }
    s ≠ t ∧ busy s = false ∧ busy t = false ∧ s.csum = t.csum ∧ s.size = t.size ∧ s.addrLen = t.addrLen ∧
      s.addrChar = t.addrChar ∧ s.plPtr = t.plPtr ∧ s.hdr = t.hdr ∧ s.payload = t.payload ∧ s.cfg = t.cfg ∧
      s.txStream = t.txStream ∧ s.rxStream = t.rxStream ∧ s.regRdata = t.regRdata ∧ s.events = t.events := by decide
theorem test_witness_RaiseAborts :
    (1 ≤ (inPhase .enqTx 0).phase.code.toNat ∧ (inPhase .eotTx 0).phase.code.toNat ≤ 8) ∧
      (State.reset.phase.code.toNat = 0 ∧ 8 < (inPhase .link 0).phase.code.toNat) := by decide
/-- Two steps that leave a sending and a reading phase as they are. -/
theorem test_witness_PortPhaseWaits :
    let es : List Event := [.rxTimeout, .regWr 0x04 5]
    let fs : List Event := [.txAcc, .regRd 0x01]
    ((∀ p, Event.reset p ∉ es.take 2) ∧ Event.txAcc ∉ es.take 2) ∧
      ((∀ p, Event.reset p ∉ fs.take 2) ∧ Event.rx ∉ fs.take 2 ∧ Event.rxTimeout ∉ fs.take 2) ∧
      (inPhase .eotTx 0).phase = .eotTx ∧ (inPhase .enqRx 0).phase = .enqRx := by
  refine ⟨⟨fun p => by simp, by decide⟩, ⟨fun p => by simp, by decide, by decide⟩, rfl, rfl⟩
/-- A byte sent and a byte received. -/
theorem test_witness_StreamsMove :
    let s := withEvent .txAcc (inPhase .ackTx 0)
    let t := withEvent .rx { midResponse with rxStream := [0x34, 0x56] }
    (txByte s = some 0x06 ∧ (nextOf (step s)).map (·.txStream) = some [0x06]) ∧
      (rxReady t = true ∧ t.rxStream = 0x34 :: [0x56] ∧ (nextOf (step t)).map (·.rxStream) = some [0x56]) := by decide
theorem test_witness_ResetEvent :
    (withEvent (.reset goodParams) midResponse).events = [.reset goodParams] ∧
      (goodParams.clientId ≠ 0 ∧ (∀ e ∈ goodParams.memType, e.2 ≤ 15) ∧ (goodParams.memType.map Prod.fst).Nodup ∧
        goodParams.memType.lookup 0x56 = some 1) ∧
      ¬ (∀ e ∈ [((0x58 : Byte), 16)], e.2 ≤ 15) := by decide

end Sys2Proof.Tests
end

section
/-! PROOFS of the statements about the state (10_state.md): the step facts they need, then the statements. -/

namespace Sys2Proof.Machine

/-! ## Reserved indices and the values at reset -/

/-- A reserved index reads 0x0000 (10_state.md R42). -/
theorem regValue_of_reserved {i : Byte} (h : 0x31 ≤ i.toNat) (s : State) : regValue s i = 0x0000 := by
  unfold regValue
  split
  case h_13 n _ _ _ _ _ _ _ _ _ _ _ _ =>
    rw [if_neg (by omega), if_neg (by omega), if_neg (by omega)]
  all_goals omega

/-- A host write to a reserved index is ignored (10_state.md R42). -/
theorem regWrite_of_reserved {i : Byte} (h : 0x31 ≤ i.toNat) (v : Word) (s : State) :
    regWrite i v s = refuseWrite s := by
  rcases regWrite_cases i v s with hr | ⟨_, ⟨hi, _⟩ | ⟨hi, _⟩ | ⟨hi, _⟩ | ⟨_, hi, _⟩⟩
  · exact hr
  all_goals omega

/-- Settles O13: the read and the write of a reserved index, by the step of either event. -/
theorem reservedIndexReadsZeroIgnoresWrites : Obligations.ReservedIndexReadsZeroIgnoresWrites := by
  intro s i es hi
  constructor
  · intro he
    rw [step_regRd he, regRead_eq, regValue_of_reserved hi]
  · intro v he
    have hne : i ≠ 0x00 := by rintro rfl; exact absurd hi (by decide)
    rw [step_regWr he hne, regWrite_of_reserved hi]
    rfl

/-- At reset PL_LEN is 0, so PL_DATA reads 0x0000 at every PL_PTR (10_state.md R37, R45). -/
theorem regValue_plData_of_reset (p : Word) : regValue { State.reset with plPtr := p } 0x07 = 0x0000 :=
  plData_of_le (Nat.zero_le _)

/-- Settles O49: every element by evaluation of State.reset, PL_DATA by PL_LEN = 0. -/
theorem resetValues : Obligations.ResetValues := by
  refine ⟨rfl, rfl, rfl, rfl, rfl, rfl, rfl, rfl, rfl, rfl, rfl, rfl, rfl, rfl, regValue_plData_of_reset, rfl, rfl, rfl,
    rfl, rfl, rfl, rfl, rfl, ?status, ?config⟩
  case status => decide
  case config => decide

end Sys2Proof.Machine
end

section
/-! PROOFS about HOSTERR (10_state.md R29): which command words are ill-formed, the body of each command, everything an RX
can do, what each operation leaves in HOSTERR, and the statement over every step. -/

namespace Sys2Proof.Machine

/-! ## Ill-formed command words -/

theorem cmdCode_toNat (v : Word) : (cmdCode v).toNat = v.toNat % 16 := by
  simp [cmdCode]

theorem cmdRsv_eq_zero_iff (v : Word) : cmdRsv v = 0 ↔ v.toNat / 16 % 16 = 0 := by
  rw [← BitVec.toNat_inj]
  simp [cmdRsv, Nat.shiftRight_eq_div_pow]

theorem cmdOpnd_eq_zero_iff (v : Word) : cmdOpnd v = 0 ↔ v.toNat / 256 = 0 := by
  have hv := v.isLt
  have hmod : v.toNat / 256 % 256 = v.toNat / 256 := Nat.mod_eq_of_lt (by omega)
  rw [← BitVec.toNat_inj]
  simp [cmdOpnd, Nat.shiftRight_eq_div_pow, hmod]

theorem withoutOperand_isError_iff (v : Word) (i : Instr) :
    (∃ e, withoutOperand v i = .error e) ↔ v.toNat / 256 ≠ 0 := by
  rw [Ne, ← cmdOpnd_eq_zero_iff]
  unfold withoutOperand
  split
  · rename_i h; simp [h]
  · rename_i h; simpa using h

/-- The decoder rejects exactly the ill-formed command words (30_encoding.md R96). -/
theorem decodeCmd_isError_iff (v : Word) : (∃ e, decodeCmd v = .error e) ↔ illFormedWord v := by
  unfold decodeCmd illFormedWord
  rw [cmdCode_toNat]
  by_cases hr : cmdRsv v = 0
  · have hr' := (cmdRsv_eq_zero_iff v).mp hr
    rw [if_neg (not_not_intro hr)]
    split
    case h_2 hc => simp [hc, hr']
    case h_7 =>
      simp only [imp_false] at *
      exact iff_of_true ⟨_, rfl⟩ (.inl (by omega))
    all_goals
      rw [withoutOperand_isError_iff]
      omega
  · have hr' := (cmdRsv_eq_zero_iff v).not.mp hr
    rw [if_pos hr]
    simp [hr']

/-- A word that decodes is not ill-formed. -/
theorem not_illFormedWord_of_decodeCmd {v : Word} {i : Instr} (h : decodeCmd v = .ok i) : ¬ illFormedWord v := by
  rw [← decodeCmd_isError_iff, h]
  simp

/-! ## The commands -/

/-- What a command does once it is accepted; nothing for the rows that are no commands. -/
def commandBody : Instr → State → State
  | .csumClear => fun s => { s with csum := 0x00, done := true }
  | .csumFold b => fun s => { s with csum := s.csum ^^^ b, done := true }
  | .hdrBuildRd => hdrBuild 0x0
  | .hdrBuildWr => hdrBuild 0x8
  | .testConnection => startHandshake .testConnection
  | .readValue => fun s => startHandshake .readValue (clearResponse s)
  | .opRead | .opWrite | .soh | .stx | .etx | .eot | .enq | .ack | .nak | .etb => id

/-- Every command is its body behind the one acceptance rule (40_host_interface.md R129, R130). -/
theorem exec_eq_command {i : Instr} (h : isCommand i = true) (s : State) : exec i s = command (commandBody i) s := by
  cases i
  case csumClear | csumFold | hdrBuildRd | hdrBuildWr | testConnection | readValue => rfl
  all_goals cases h

@[simp] theorem hdrBuild_hostErr (op : Nibble) (s : State) : (hdrBuild op s).hostErr = s.hostErr := by
  rcases hdrBuild_cases op s with ⟨e, _, he⟩ | ⟨h, _, he⟩
  · rw [he, raise_hostErr]
  · rw [he]

@[simp] theorem commandBody_hostErr (i : Instr) (s : State) : (commandBody i s).hostErr = s.hostErr := by
  cases i
  case hdrBuildRd => exact hdrBuild_hostErr 0x0 s
  case hdrBuildWr => exact hdrBuild_hostErr 0x8 s
  all_goals rfl

/-- A command word leaves HOSTERR set exactly if it is rejected because BUSY = 1 (40_host_interface.md R129, R130). -/
theorem hostErr_of_exec_command {i : Instr} {s t : State} (hi : isCommand i = true) (h : exec i s = .next t) :
    t.hostErr = busy s := by
  rw [exec_eq_command hi] at h
  rcases command_cases h with ⟨hb, ht⟩ | ⟨hb, ht⟩
  · cases ht; rw [refuseWrite_hostErr, hb]
  · cases ht; rw [commandBody_hostErr, accept_hostErr, hb]

/-! ## Host writes to the other registers -/

theorem regWrite_of_busy (i : Byte) (v : Word) {s : State} (h : busy s = true) :
    regWrite i v s = refuseWrite s := if_pos h

/-- The block ignores a host write to a register other than CMD exactly while it is busy, or where the write is illegal
(40_host_interface.md R124 to R128). -/
theorem regWrite_hostErr_iff {i : Byte} (v : Word) (s : State) :
    (regWrite i v s).hostErr = true ↔ (busy s = true ∨ ¬ legalOperandWrite i v) ∨ s.hostErr = true := by
  have hlegal : legalOperandWrite i v ↔ i.toNat = 0x04 ∨ (i.toNat = 0x05 ∧ v.toNat ≤ 16) ∨ i.toNat = 0x06 ∨
      (0x10 ≤ i.toNat ∧ i.toNat ≤ 0x1F ∧ v.toNat ≤ 0xFF) := by
    simp only [legalOperandWrite, ← BitVec.toNat_inj]
    rfl
  rw [hlegal]
  by_cases hb : busy s = true
  · simp [regWrite_of_busy i v hb, hb]
  · unfold regWrite
    rw [if_neg hb]
    split
    case h_1 h => simp [hb, h]
    case h_2 h => unfold writeAddrLen; split <;> simp_all
    case h_3 h => simp [hb, h]
    case h_4 =>
      split
      · unfold writeAddrChar; split <;> simp_all
      · simp only [imp_false] at *
        exact iff_of_true rfl (.inl (.inr (by omega)))

/-! ## The link -/

/-- Everything an RX that answers a next state can do (40_host_interface.md R133). -/
theorem rxByte_next_cases {b : Byte} {s t : State} (h : rxByte b s = .next t) :
    (rxReady s = false ∧ t = s) ∨
    (s.phase = .enqRx ∧ ∃ hlt : s.idx.toNat < 3,
      (s.idx.toNat < 2 ∧ t = { s with echo := s.echo.set s.idx.toNat b hlt, idx := s.idx + 1 }) ∨
      (s.idx.toNat = 2 ∧ t = handshakeComplete { s with echo := s.echo.set s.idx.toNat b hlt })) ∨
    (s.phase = .ackRx ∧ t = rxAck b s) ∨
    (s.phase = .respRx ∧
      ((s.idx.toNat = 0 ∧ t = { s with respStx := b, idx := 1 }) ∨
       (1 ≤ s.idx.toNat ∧ s.idx.toNat ≤ s.size.toNat ∧ t = respData b s) ∨
       (s.idx.toNat = s.size.toNat + 1 ∧ t = respEtxByte b s) ∨
       (s.idx.toNat = s.size.toNat + 2 ∧ t = respLast b s))) ∨
    (s.phase = .eotRx ∧ t = rxEot b s) := by
  unfold rxByte at h
  split at h
  case h_1 hp =>
    refine .inr (.inl ⟨hp, ?_⟩)
    rcases rxEnq_cases b s with ⟨hlt, h2, hr⟩ | ⟨hlt, h2, hr⟩ | ⟨_, hr⟩ <;> rw [hr] at h <;> cases h
    · exact ⟨hlt, .inl ⟨h2, rfl⟩⟩
    · exact ⟨hlt, .inr ⟨h2, rfl⟩⟩
  case h_2 hp => cases h; exact .inr (.inr (.inl ⟨hp, rfl⟩))
  case h_3 hp =>
    refine .inr (.inr (.inr (.inl ⟨hp, ?_⟩)))
    rcases rxResp_cases b s with ⟨h0, hr⟩ | ⟨h0, h1, hr⟩ | ⟨h0, hr⟩ | ⟨h0, hr⟩ | ⟨_, hr⟩ <;> rw [hr] at h <;> cases h
    · exact .inl ⟨h0, rfl⟩
    · exact .inr (.inl ⟨h0, h1, rfl⟩)
    · exact .inr (.inr (.inl ⟨h0, rfl⟩))
    · exact .inr (.inr (.inr ⟨h0, rfl⟩))
  case h_4 hp => cases h; exact .inr (.inr (.inr (.inr ⟨hp, rfl⟩)))
  all_goals
    rename_i hp
    cases h
    exact .inl ⟨by simp [rxReady, hp, Phase.reads], rfl⟩

@[simp] theorem handshakeComplete_hostErr (s : State) : (handshakeComplete s).hostErr = s.hostErr := by
  rcases handshakeComplete_cases s with ⟨_, h⟩ | ⟨_, _, h⟩ | ⟨_, _, ⟨e, _, h⟩ | ⟨hd, _, h⟩⟩ <;> rw [h] <;> rfl

@[simp] theorem rxAck_hostErr (b : Byte) (s : State) : (rxAck b s).hostErr = s.hostErr := by
  unfold rxAck
  split <;> rfl

@[simp] theorem respLast_hostErr (b : Byte) (s : State) : (respLast b s).hostErr = s.hostErr := by
  rcases respLast_cases b s with ⟨_, _, h⟩ | ⟨_, h⟩ <;> rw [h] <;> rfl

@[simp] theorem rxEot_hostErr (b : Byte) (s : State) : (rxEot b s).hostErr = s.hostErr := by
  unfold rxEot
  split <;> rfl

/-- No byte received changes HOSTERR. -/
theorem hostErr_of_rxByte {b : Byte} {s t : State} (h : rxByte b s = .next t) : t.hostErr = s.hostErr := by
  rcases rxByte_next_cases h with ⟨_, rfl⟩ | ⟨_, _, ⟨_, rfl⟩ | ⟨_, rfl⟩⟩ | ⟨_, rfl⟩ |
    ⟨_, ⟨_, rfl⟩ | ⟨_, _, rfl⟩ | ⟨_, rfl⟩ | ⟨_, rfl⟩⟩ | ⟨_, rfl⟩ <;> simp

/-- No byte sent changes HOSTERR. -/
@[simp] theorem txAccept_hostErr (b : Byte) (s : State) : (txAccept b s).hostErr = s.hostErr := by
  show (txAdvance s).hostErr = s.hostErr
  unfold txAdvance
  split
  case h_1 | h_2 => split <;> rfl
  all_goals rfl

/-- No read deadline changes HOSTERR. -/
@[simp] theorem rxTimeout_hostErr (s : State) : (rxTimeout s).hostErr = s.hostErr := by
  rcases rxTimeout_cases s with h | ⟨e, _, _, h⟩ <;> rw [h]

/-! ## HOSTERR over every step -/

/-- The rule of HOSTERR (10_state.md R29) for a step from s to t. -/
def hosterrRule (s t : State) : Prop :=
  t.hostErr = true ↔ ignoresWrite s ∨ (s.hostErr = true ∧ ¬ acceptsCommand s ∧ ¬ nextIsReset s)

/-- An event that is no host write and no RESET ignores nothing and accepts nothing, so the rule says that HOSTERR is
kept. -/
theorem hosterrRule_of_otherEvent {s t : State} (hk : t.hostErr = s.hostErr)
    (hw : ∀ i v es, s.events ≠ .regWr i v :: es) (hr : ∀ p es, s.events ≠ .reset p :: es) : hosterrRule s t := by
  have hig : ¬ ignoresWrite s := by rintro ⟨i, v, es, he, _⟩; exact hw i v es he
  have hac : ¬ acceptsCommand s := by rintro ⟨v, es, he, _⟩; exact hw _ v es he
  have hre : ¬ nextIsReset s := by rintro ⟨p, es, he⟩; exact hr p es he
  simp [hosterrRule, hk, hig, hac, hre]

/-- A write to CMD is ignored, or is a command accepted, by BUSY and by its word (10_state.md R29). -/
theorem hosterr_premises_of_cmd {s : State} {v : Word} {es : List Event} (he : s.events = .regWr 0x00 v :: es) :
    (ignoresWrite s ↔ busy s = true ∨ illFormedWord v) ∧
    (acceptsCommand s ↔ busy s = false ∧ ¬ illFormedWord v) ∧ ¬ nextIsReset s := by
  simp [ignoresWrite, acceptsCommand, nextIsReset, he]

/-- A write to another register is ignored while busy or where it is illegal, and is no command (10_state.md R29). -/
theorem hosterr_premises_of_regWr {s : State} {i : Byte} {v : Word} {es : List Event} (he : s.events = .regWr i v :: es)
    (hi : i ≠ 0x00) :
    (ignoresWrite s ↔ busy s = true ∨ ¬ legalOperandWrite i v) ∧ ¬ acceptsCommand s ∧ ¬ nextIsReset s := by
  simp_all [ignoresWrite, acceptsCommand, nextIsReset]

/-- A command word that does not decode is ignored, so HOSTERR is set (30_encoding.md R96). -/
theorem hosterrRule_of_undecodedCmd {s : State} {v : Word} {e : DecodeError} {es : List Event}
    (he : s.events = .regWr 0x00 v :: es) (hd : decodeCmd v = .error e) :
    hosterrRule s (refuseWrite { s with events := es }) := by
  have hv : illFormedWord v := (decodeCmd_isError_iff v).mp ⟨e, hd⟩
  have hig : ignoresWrite s := (hosterr_premises_of_cmd he).1.mpr (.inr hv)
  exact iff_of_true rfl (.inl hig)

/-- A command word that decodes is ignored while busy, and else accepted, which clears HOSTERR. -/
theorem hosterrRule_of_command {s t : State} {v : Word} {i : Instr} {es : List Event}
    (he : s.events = .regWr 0x00 v :: es) (hd : decodeCmd v = .ok i)
    (hx : exec i { s with events := es } = .next t) : hosterrRule s t := by
  obtain ⟨hig, hac, _⟩ := hosterr_premises_of_cmd he
  have hv : ¬ illFormedWord v := not_illFormedWord_of_decodeCmd hd
  have ht : t.hostErr = busy s := (hostErr_of_exec_command (decodeCmd_isCommand hd) hx :)
  rw [hosterrRule, ht, hig, hac]
  cases busy s <;> simp [hv]

/-- A write to another register sets HOSTERR exactly if it is ignored, and else keeps it. -/
theorem hosterrRule_of_regWr {s : State} {i : Byte} {v : Word} {es : List Event}
    (he : s.events = .regWr i v :: es) (hi : i ≠ 0x00) :
    hosterrRule s (regWrite i v { s with events := es }) := by
  obtain ⟨hig, hac, hre⟩ := hosterr_premises_of_regWr he hi
  rw [hosterrRule, regWrite_hostErr_iff, hig]
  simp [hac, hre, busy]

/-- RESET ignores nothing and clears HOSTERR. -/
theorem hosterrRule_of_reset {s : State} {p : RawParams} {es : List Event} (he : s.events = .reset p :: es)
    (c : Params) : hosterrRule s (resetWith c { s with events := es }) := by
  have hre : nextIsReset s := ⟨p, es, he⟩
  have hig : ¬ ignoresWrite s := by simp [ignoresWrite, he]
  simp [hosterrRule, hre, hig, State.reset]

/-- Every step follows the rule of HOSTERR. -/
theorem step_hosterrRule {s t : State} (h : step s = .next t) : hosterrRule s t := by
  rcases step_next_cases h with ⟨he, rfl⟩ | ⟨i, v, es, he, rfl⟩ | ⟨v, e, es, he, hd, rfl⟩ |
    ⟨v, i, es, he, hd, _, hx⟩ | ⟨i, v, es, he, hi, rfl⟩ | ⟨b, es, he, _, rfl⟩ | ⟨es, he, _, _, rfl⟩ |
    ⟨b, bs, es, he, _, _, hx⟩ | ⟨es, he, _, rfl⟩ | ⟨es, he, rfl⟩ | ⟨p, c, es, he, _, rfl⟩
  · exact hosterrRule_of_otherEvent rfl (by simp [he]) (by simp [he])
  · exact hosterrRule_of_otherEvent rfl (by simp [he]) (by simp [he])
  · exact hosterrRule_of_undecodedCmd he hd
  · exact hosterrRule_of_command he hd hx
  · exact hosterrRule_of_regWr he hi
  · exact hosterrRule_of_otherEvent (txAccept_hostErr b _) (by simp [he]) (by simp [he])
  · exact hosterrRule_of_otherEvent rfl (by simp [he]) (by simp [he])
  · exact hosterrRule_of_otherEvent (hostErr_of_rxByte hx :) (by simp [he]) (by simp [he])
  · exact hosterrRule_of_otherEvent rfl (by simp [he]) (by simp [he])
  · exact hosterrRule_of_otherEvent (rxTimeout_hostErr _) (by simp [he]) (by simp [he])
  · exact hosterrRule_of_reset he c

/-- Settles O15: HOSTERR at reset by evaluation, and after a step by what the step's event does to it. -/
theorem hosterrIsSticky : Obligations.HosterrIsSticky :=
  ⟨rfl, fun _ _ => step_hosterrRule⟩

end Sys2Proof.Machine
end

section
/-! PROOFS about the end of a link command (10_state.md R27, 40_host_interface.md R137, 60_exceptions.md). -/

namespace Sys2Proof.Machine

/-- t is a link command aborted from s: DONE with an error, back in IDLE, and nothing more sent. -/
def abortedFrom (s t : State) : Prop :=
  t.done = true ∧ t.err ≠ .none ∧ t.phase = .idle ∧ t.txStream = s.txStream

/-- An abort while a link command runs is one from every state with the same TX stream (60_exceptions.md R253). -/
theorem abortedFrom_raise {s u : State} {e : ErrCode} (hb : busy u = true) (he : e ≠ .none)
    (htx : u.txStream = s.txStream) : abortedFrom s (raise e u) := by
  rw [raise_of_busy hb]
  exact ⟨rfl, he, rfl, htx⟩

/-- After an abort the block offers no byte and reads none. -/
theorem silent_of_abortedFrom {s t : State} (h : abortedFrom s t) : txValid t = false ∧ rxReady t = false := by
  obtain ⟨_, _, hp, _⟩ := h
  rw [txValid, rxReady, hp]
  exact ⟨rfl, rfl⟩

/-- The third reply byte ends the command in LINK for a TEST_CONNECTION, or aborts it, or the command goes on. -/
theorem handshakeComplete_ends {s : State} (hb : busy s = true) :
    busy (handshakeComplete s) = true ∨
    (s.opk = .testConnection ∧ handshakeComplete s = { s with phase := .link, done := true }) ∨
    abortedFrom s (handshakeComplete s) := by
  rcases handshakeComplete_cases s with ⟨_, h⟩ | ⟨_, ho, h⟩ | ⟨_, _, ⟨e, he, h⟩ | ⟨hd, _, h⟩⟩
  · rw [h]
    exact .inr (.inr (abortedFrom_raise hb (by decide) rfl))
  · exact .inr (.inl ⟨ho, h⟩)
  · have hne : e ≠ .none := by rcases encodeHeader_error he with rfl | rfl <;> decide
    rw [h]
    exact .inr (.inr (abortedFrom_raise hb hne rfl))
  · rw [h]
    exact .inl rfl

theorem rxAck_ends {s : State} (b : Byte) (hb : busy s = true) :
    busy (rxAck b s) = true ∨ abortedFrom s (rxAck b s) := by
  unfold rxAck
  split
  · exact .inl rfl
  · exact .inr (abortedFrom_raise hb (by decide) rfl)

theorem respLast_ends {s : State} (b : Byte) (hb : busy s = true) :
    busy (respLast b s) = true ∨ abortedFrom s (respLast b s) := by
  rcases respLast_cases b s with ⟨_, _, h⟩ | ⟨_, h⟩ <;> rw [h]
  · exact .inr (abortedFrom_raise hb (by decide) rfl)
  · exact .inl rfl

theorem rxEot_ends {s : State} (b : Byte) (hb : busy s = true) :
    busy (rxEot b s) = true ∨ abortedFrom s (rxEot b s) := by
  unfold rxEot
  split
  · exact .inl rfl
  · exact .inr (abortedFrom_raise hb (by decide) rfl)

/-- An RX that ends a link command ends it in LINK for a TEST_CONNECTION, or aborts it. -/
theorem rxByte_ends {b : Byte} {s t : State} (h : rxByte b s = .next t) (hb : busy s = true) (ht : busy t = false) :
    (s.opk = .testConnection ∧ t.done = true ∧ t.err = s.err ∧ t.phase = .link) ∨ abortedFrom s t := by
  have ended : busy t ≠ true := by simp [ht]
  rcases rxByte_next_cases h with ⟨_, rfl⟩ | ⟨_, hlt, ⟨_, rfl⟩ | ⟨_, rfl⟩⟩ | ⟨_, rfl⟩ |
    ⟨_, ⟨_, rfl⟩ | ⟨_, _, rfl⟩ | ⟨_, rfl⟩ | ⟨_, rfl⟩⟩ | ⟨_, rfl⟩
  · exact absurd hb ended
  · exact absurd hb ended
  · rcases handshakeComplete_ends (s := { s with echo := s.echo.set s.idx.toNat b hlt }) hb with h' | ⟨ho, h'⟩ | h'
    · exact absurd h' ended
    · rw [h']
      exact .inl ⟨ho, rfl, rfl, rfl⟩
    · exact .inr h'
  · exact .inr ((rxAck_ends b hb).resolve_left ended)
  · exact absurd hb ended
  · exact absurd hb ended
  · exact absurd hb ended
  · exact .inr ((respLast_ends b hb).resolve_left ended)
  · exact .inr ((rxEot_ends b hb).resolve_left ended)

/-- An RX_TIMEOUT that ends a link command aborts it (40_host_interface.md R134). -/
theorem rxTimeout_ends {s : State} (hb : busy s = true) :
    busy (rxTimeout s) = true ∨ abortedFrom s (rxTimeout s) := by
  rcases rxTimeout_cases s with h | ⟨e, he, _, h⟩
  · rw [h]
    exact .inl hb
  · have hne : e ≠ .none := by rcases he with rfl | rfl <;> decide
    rw [h]
    exact .inr ⟨rfl, hne, rfl, rfl⟩

/-- A TX_ACC that ends a link command is that of the closing EOT (45_read_transaction.md R228). -/
theorem txAccept_ends {b : Byte} {s : State} (hb : busy s = true) (ht : busy (txAccept b s) = false) :
    s.phase = .eotTx ∧ (txAccept b s).done = true ∧ (txAccept b s).err = s.err ∧ (txAccept b s).phase = .closed := by
  have hs : s.phase.busy = true := hb
  change (txAdvance s).phase.busy = false at ht
  show s.phase = .eotTx ∧ (txAdvance s).done = true ∧ (txAdvance s).err = s.err ∧ (txAdvance s).phase = .closed
  cases hp : s.phase <;> rw [hp] at hs
  case eotTx => simp [txAdvance, hp]
  case enqTx | hdrTx =>
    simp only [txAdvance, hp] at ht
    split at ht <;> simp [Phase.busy] at ht
  case enqRx | ackRx | respRx | ackTx | eotRx => simp [txAdvance, hp, Phase.busy] at ht
  all_goals cases hs

/-- A command word that comes while a link command runs does not end it (40_host_interface.md R130). -/
theorem busy_of_exec_command {i : Instr} {s t : State} (hi : isCommand i = true) (h : exec i s = .next t)
    (hb : busy s = true) : busy t = true := by
  rw [exec_eq_command hi, command_of_busy hb] at h
  cases h
  exact hb

/-- Nor does any other host write (40_host_interface.md R124). -/
theorem busy_regWrite (i : Byte) (v : Word) {s : State} (hb : busy s = true) : busy (regWrite i v s) = true := by
  rw [regWrite_of_busy i v hb]
  exact hb

/-- Only a transfer, the read deadline or a RESET ends a link command. -/
theorem step_leaves_busy {s t : State} (h : step s = .next t) (hb : busy s = true) (ht : busy t = false) :
    nextIsReset s ∨
    (∃ b es, t = txAccept b { s with events := es }) ∨
    (∃ b bs es, rxByte b { s with events := es, rxStream := bs } = .next t) ∨
    (∃ es, t = rxTimeout { s with events := es }) := by
  have ended : busy t ≠ true := by simp [ht]
  rcases step_next_cases h with ⟨_, rfl⟩ | ⟨i, v, es, _, rfl⟩ | ⟨v, e, es, _, _, rfl⟩ |
    ⟨v, i, es, _, _, hi, hx⟩ | ⟨i, v, es, _, _, rfl⟩ | ⟨b, es, _, _, rfl⟩ | ⟨es, _, _, _, rfl⟩ |
    ⟨b, bs, es, _, _, _, hx⟩ | ⟨es, _, _, rfl⟩ | ⟨es, _, rfl⟩ | ⟨p, c, es, he, _, _⟩
  · exact absurd hb ended
  · exact absurd hb ended
  · exact absurd hb ended
  · exact absurd (busy_of_exec_command hi hx hb) ended
  · exact (ended (busy_regWrite i v hb)).elim
  · exact .inr (.inl ⟨b, es, rfl⟩)
  · exact absurd hb ended
  · exact .inr (.inr (.inl ⟨b, bs, es, hx⟩))
  · exact absurd hb ended
  · exact .inr (.inr (.inr ⟨es, rfl⟩))
  · exact .inl ⟨p, es, he⟩

/-- The invariant ties the closing EOT to READ_VALUE (10_state.md R24, R30). -/
theorem opk_of_eotTx {s : State} (hs : Inv s) (hp : s.phase = .eotTx) : s.opk = .readValue := by
  have hc : commandOfPhase s := hs.command
  rw [commandOfPhase, hp] at hc
  exact hc.1

/-- Settles O45: each of the events that can end a link command, with ERR = NONE before it by the invariant. -/
theorem linkCommandEndsCleanly : Obligations.LinkCommandEndsCleanly := by
  intro s t hs hb h ht
  obtain ⟨_, hnone⟩ := hs.busyNotDone hb
  have aborted (ha : abortedFrom s t) : t.done = true ∧ t.err ≠ .none ∧ t.phase = .idle ∧ t.txStream = s.txStream ∧
      txValid t = false ∧ rxReady t = false := by
    obtain ⟨hd, he, hp, htx⟩ := ha
    exact ⟨hd, he, hp, htx, silent_of_abortedFrom ⟨hd, he, hp, htx⟩⟩
  rcases step_leaves_busy h hb ht with hr | ⟨b, es, rfl⟩ | ⟨b, bs, es, hx⟩ | ⟨es, rfl⟩
  · exact .inl hr
  · obtain ⟨hp, hd, he, hc⟩ := txAccept_ends (s := { s with events := es }) hb ht
    exact .inr (.inl ⟨hd, he.trans hnone, .inr ⟨hc, opk_of_eotTx hs hp⟩⟩)
  · rcases rxByte_ends hx hb ht with ⟨ho, hd, he, hl⟩ | ha
    · exact .inr (.inl ⟨hd, he.trans hnone, .inl ⟨hl, ho⟩⟩)
    · exact .inr (.inr (aborted ha))
  · rcases rxTimeout_ends (s := { s with events := es }) hb with hgo | ha
    · exact absurd (hgo.symm.trans ht) (by decide)
    · exact .inr (.inr (aborted ha))

end Sys2Proof.Machine
end

section
/-! PROOFS that the bytes of PAYLOAD at or above PL_LEN are never observable (10_state.md R36, R37): two states that
agree but for them are told apart by no operation. -/

namespace Sys2Proof.Machine

/-! ## The state with another payload -/

/-- The state with the payload m. -/
abbrev withPayload (m : Memory) (s : State) : State := { s with payload := m }

theorem busy_withPayload (m : Memory) (s : State) : busy (withPayload m s) = busy s := rfl
theorem txValid_withPayload (m : Memory) (s : State) : txValid (withPayload m s) = txValid s := rfl
theorem encodeHeader_withPayload (op : Nibble) (m : Memory) (s : State) :
    encodeHeader op (withPayload m s) = encodeHeader op s := encodeHeader_congr op rfl rfl rfl rfl

/-- States that agree but for unwritten bytes are one state with two payloads, equal below PL_LEN. -/
theorem agreeButUnwritten_iff {s t : State} :
    agreeButUnwritten s t ↔
      ∃ m, t = withPayload m s ∧ ∀ k, k < s.plLen.toNat → Memory.read s.payload k = Memory.read m k := by
  constructor
  · rintro ⟨h, hread⟩
    have heq := congrArg (withPayload t.payload) h.symm
    exact ⟨t.payload, heq, hread⟩
  · rintro ⟨m, rfl, hread⟩
    exact ⟨rfl, hread⟩

theorem agreeButUnwritten_refl (s : State) : agreeButUnwritten s s := ⟨rfl, fun _ _ => rfl⟩

/-! ## Operations that do not read PAYLOAD -/

/-- f neither reads nor writes PAYLOAD, and does not raise PL_LEN. -/
structure PayloadBlind (f : State → State) : Prop where
  /-- f does the same whatever PAYLOAD holds, and keeps it -/
  commutes : ∀ m s, f (withPayload m s) = withPayload m (f s)
  /-- f makes no further byte of PAYLOAD observable -/
  plLen_le : ∀ s, (f s).plLen.toNat ≤ s.plLen.toNat

/-- An operation blind to PAYLOAD tells no two such states apart. -/
theorem PayloadBlind.agree {f : State → State} (hf : PayloadBlind f) {s t : State} (h : agreeButUnwritten s t) :
    agreeButUnwritten (f s) (f t) := by
  obtain ⟨m, rfl, hread⟩ := agreeButUnwritten_iff.mp h
  have hkept : (f s).payload = s.payload := by
    have hsame : f s = withPayload s.payload (f s) := hf.commutes s.payload s
    rw [hsame]
  refine agreeButUnwritten_iff.mpr ⟨m, hf.commutes m s, fun k hk => ?_⟩
  rw [hkept]
  exact hread k (Nat.lt_of_lt_of_le hk (hf.plLen_le s))

theorem PayloadBlind.comp {f g : State → State} (hf : PayloadBlind f) (hg : PayloadBlind g) :
    PayloadBlind (fun s => f (g s)) where
  commutes m s := (congrArg f (hg.commutes m s)).trans (hf.commutes m (g s))
  plLen_le s := Nat.le_trans (hf.plLen_le (g s)) (hg.plLen_le s)

theorem payloadBlind_id : PayloadBlind id := ⟨fun _ _ => rfl, fun _ => le_rfl⟩

theorem payloadBlind_refuseWrite : PayloadBlind refuseWrite := ⟨fun _ _ => rfl, fun _ => le_rfl⟩

theorem payloadBlind_accept : PayloadBlind accept := ⟨fun _ _ => rfl, fun _ => le_rfl⟩

theorem payloadBlind_raise (e : ErrCode) : PayloadBlind (raise e) := ⟨fun _ _ => rfl, fun _ => le_rfl⟩

theorem payloadBlind_startHandshake (k : LinkCommand) : PayloadBlind (startHandshake k) :=
  ⟨fun _ _ => rfl, fun _ => le_rfl⟩

theorem payloadBlind_clearResponse : PayloadBlind clearResponse := ⟨fun _ _ => rfl, fun _ => Nat.zero_le _⟩

theorem payloadBlind_hdrBuild (op : Nibble) : PayloadBlind (hdrBuild op) where
  commutes m s := by
    unfold hdrBuild
    rw [encodeHeader_withPayload]
    cases encodeHeader op s <;> rfl
  plLen_le s := by
    rcases hdrBuild_cases op s with ⟨e, _, h⟩ | ⟨hd, _, h⟩
    · rw [h, raise_plLen]
    · rw [h]

/-- No command reads PAYLOAD. -/
theorem payloadBlind_commandBody (i : Instr) : PayloadBlind (commandBody i) := by
  cases i
  case csumClear | csumFold => exact ⟨fun _ _ => rfl, fun _ => le_rfl⟩
  case hdrBuildRd | hdrBuildWr => exact payloadBlind_hdrBuild _
  case testConnection => exact payloadBlind_startHandshake _
  case readValue => exact (payloadBlind_startHandshake _).comp payloadBlind_clearResponse
  all_goals exact payloadBlind_id

/-- No host write reads PAYLOAD. -/
theorem payloadBlind_regWrite (i : Byte) (v : Word) : PayloadBlind (regWrite i v) where
  commutes m s := by
    unfold regWrite writeAddrLen writeAddrChar
    rw [busy_withPayload m s]
    split
    · rfl
    · split
      case h_1 | h_3 => rfl
      case h_2 => split <;> rfl
      case h_4 =>
        split
        · split <;> rfl
        · rfl
  plLen_le s := by
    rcases regWrite_cases i v s with h | ⟨_, ⟨_, h⟩ | ⟨_, _, h⟩ | ⟨_, h⟩ | ⟨_, _, _, h⟩⟩ <;> rw [h]
    exact le_rfl

theorem payloadBlind_handshakeComplete : PayloadBlind handshakeComplete where
  commutes m s := by
    unfold handshakeComplete startHeader
    rw [encodeHeader_withPayload]
    dsimp only
    split
    · rfl
    · split
      · rfl
      · split <;> rfl
  plLen_le s := by
    rcases handshakeComplete_cases s with ⟨_, h⟩ | ⟨_, _, h⟩ | ⟨_, _, ⟨e, _, h⟩ | ⟨hd, _, h⟩⟩ <;> rw [h] <;> exact le_rfl

theorem payloadBlind_rxAck (b : Byte) : PayloadBlind (rxAck b) where
  commutes m s := by unfold rxAck; split <;> rfl
  plLen_le s := by unfold rxAck; split <;> exact le_rfl

theorem payloadBlind_rxEot (b : Byte) : PayloadBlind (rxEot b) where
  commutes m s := by unfold rxEot; split <;> rfl
  plLen_le s := by unfold rxEot; split <;> exact le_rfl

theorem payloadBlind_respEtxByte (b : Byte) : PayloadBlind (respEtxByte b) := ⟨fun _ _ => rfl, fun _ => le_rfl⟩

theorem payloadBlind_respLast (b : Byte) : PayloadBlind (respLast b) where
  commutes m s := by
    have hc : respChecks b (withPayload m s) = withPayload m (respChecks b s) := rfl
    unfold respLast
    rw [hc]
    dsimp only
    split <;> rfl
  plLen_le s := by
    rcases respLast_cases b s with ⟨_, _, h⟩ | ⟨_, h⟩ <;> rw [h] <;> exact le_rfl

theorem payloadBlind_txAccept (b : Byte) : PayloadBlind (txAccept b) where
  commutes m s := by
    unfold txAccept txAdvance
    dsimp only
    split
    case h_1 | h_2 => split <;> rfl
    all_goals rfl
  plLen_le s := by
    unfold txAccept txAdvance
    split
    case h_1 | h_2 => split <;> exact le_rfl
    all_goals exact le_rfl

theorem payloadBlind_rxTimeout : PayloadBlind rxTimeout where
  commutes m s := by
    unfold rxTimeout
    dsimp only
    split <;> rfl
  plLen_le s := by
    rcases rxTimeout_cases s with h | ⟨e, _, _, h⟩ <;> rw [h]

/-! ## The two places that use PAYLOAD -/

/-- PL_DATA shows no byte at or above PL_LEN (10_state.md R37). -/
theorem plData_of_agree {s t : State} (h : agreeButUnwritten s t) : plData s = plData t := by
  obtain ⟨m, rfl, hread⟩ := agreeButUnwritten_iff.mp h
  rcases Nat.lt_or_ge s.plPtr.toNat s.plLen.toNat with hlt | hge
  · rw [plData_of_lt hlt, hread _ hlt]
    exact (plData_of_lt (s := withPayload m s) hlt).symm
  · rw [plData_of_le hge]
    exact (plData_of_le (s := withPayload m s) hge).symm

/-- No register read shows a byte of PAYLOAD at or above PL_LEN. -/
theorem regValue_of_agree {s t : State} (h : agreeButUnwritten s t) (i : Byte) : regValue s i = regValue t i := by
  have hpl : plData s = plData t := plData_of_agree h
  obtain ⟨m, rfl, _⟩ := agreeButUnwritten_iff.mp h
  unfold regValue
  rw [← hpl]
  rfl

theorem regRead_agree {s t : State} (h : agreeButUnwritten s t) (i : Byte) :
    agreeButUnwritten (regRead i s) (regRead i t) := by
  have hset : PayloadBlind (fun u => { u with regRdata := regValue s i }) := ⟨fun _ _ => rfl, fun _ => le_rfl⟩
  rw [regRead_eq, regRead_eq, ← regValue_of_agree h i]
  exact hset.agree h

/-- A data byte goes to the index PL_LEN and raises PL_LEN by one (44_response_parser.md R203), so the one byte that it
makes observable is the one it writes. -/
theorem respData_agree {s t : State} (h : agreeButUnwritten s t) (b : Byte) (h1 : 1 ≤ s.idx.toNat)
    (hsize : s.idx.toNat ≤ s.size.toNat) (hlen : s.plLen.toNat = s.idx.toNat - 1) :
    agreeButUnwritten (respData b s) (respData b t) := by
  obtain ⟨m, rfl, hread⟩ := agreeButUnwritten_iff.mp h
  refine agreeButUnwritten_iff.mpr ⟨Memory.write m (s.idx.toNat - 1) b, rfl, fun k hk => ?_⟩
  have hnew : (respData b s).plLen.toNat = s.idx.toNat := by
    have := s.size.isLt
    rw [respData_plLen, BitVec.toNat_setWidth]
    omega
  rw [respData_payload, Memory.read_write, Memory.read_write]
  split
  · rfl
  · exact hread k (by omega)

/-! ## Outcomes -/

/-- Both outcomes stop for the same reason, or both answer a next state and these agree but for unwritten bytes. -/
def outcomesAgree : Host.Outcome State Fault Refusal → Host.Outcome State Fault Refusal → Prop
  | .next s, .next t => agreeButUnwritten s t
  | .fault r, .fault r' => r = r'
  | .refused r, .refused r' => r = r'
  | _, _ => False

theorem outcomesAgree_refl (o : Host.Outcome State Fault Refusal) : outcomesAgree o o := by
  cases o with
  | next s => exact agreeButUnwritten_refl s
  | fault r => rfl
  | refused r => rfl

theorem next_of_outcomesAgree {o : Host.Outcome State Fault Refusal} {s' : State} (h : outcomesAgree (.next s') o) :
    ∃ t', o = .next t' ∧ agreeButUnwritten s' t' := by
  cases o with
  | next t' => exact ⟨t', rfl, h⟩
  | fault r => exact h.elim
  | refused r => exact h.elim

theorem command_agree {body : State → State} (hbody : PayloadBlind body) {s t : State} (h : agreeButUnwritten s t) :
    outcomesAgree (command body s) (command body t) := by
  obtain ⟨m, rfl, _⟩ := agreeButUnwritten_iff.mp h
  unfold command
  rw [busy_withPayload m s]
  split
  · exact payloadBlind_refuseWrite.agree h
  · exact (hbody.comp payloadBlind_accept).agree h

/-- A write to CMD, decoded or not. -/
theorem runWord_cmd_agree (v : Word) {s t : State} (h : agreeButUnwritten s t) :
    outcomesAgree (runWord (.cmd v) s) (runWord (.cmd v) t) := by
  cases hd : decodeCmd v with
  | error e =>
    have hrun (u : State) : runWord (.cmd v) u = .next (refuseWrite u) := by simp [runWord, decode, hd, runUnlisted]
    rw [hrun, hrun]
    exact payloadBlind_refuseWrite.agree h
  | ok i =>
    have hrun (u : State) : runWord (.cmd v) u = command (commandBody i) u := by
      rw [← exec_eq_command (decodeCmd_isCommand hd)]
      simp [runWord, decode, hd]
    rw [hrun, hrun]
    exact command_agree (payloadBlind_commandBody i) h

theorem rxEnq_agree (b : Byte) {s t : State} (h : agreeButUnwritten s t) :
    outcomesAgree (rxEnq b s) (rxEnq b t) := by
  have hecho (e : Vector Byte 3) : PayloadBlind (fun u => { u with echo := e }) := ⟨fun _ _ => rfl, fun _ => le_rfl⟩
  have hecho_idx (e : Vector Byte 3) (k : BitVec 17) : PayloadBlind (fun u => { u with echo := e, idx := k }) :=
    ⟨fun _ _ => rfl, fun _ => le_rfl⟩
  obtain ⟨m, rfl, _⟩ := agreeButUnwritten_iff.mp h
  unfold rxEnq
  dsimp only
  split
  · split
    · exact (hecho_idx _ _).agree h
    · exact (payloadBlind_handshakeComplete.comp (hecho _)).agree h
  · rfl

/-- In RESP_RX the invariant puts each data byte at the index PL_LEN. -/
theorem rxResp_agree (b : Byte) {s t : State} (h : agreeButUnwritten s t)
    (hlen : s.plLen.toNat = min (s.idx.toNat - 1) s.size.toNat) : outcomesAgree (rxResp b s) (rxResp b t) := by
  have hstx : PayloadBlind (fun u => { u with respStx := b, idx := 1 }) := ⟨fun _ _ => rfl, fun _ => le_rfl⟩
  obtain ⟨m, rfl, _⟩ := agreeButUnwritten_iff.mp h
  unfold rxResp
  dsimp only
  split_ifs with h0 h1 h2 h3
  · exact hstx.agree h
  · exact respData_agree h b (by omega) h1 (by omega)
  · exact (payloadBlind_respEtxByte b).agree h
  · exact (payloadBlind_respLast b).agree h
  · rfl

theorem rxByte_agree (b : Byte) {s t : State} (h : agreeButUnwritten s t) (hlen : payloadProgress s) :
    outcomesAgree (rxByte b s) (rxByte b t) := by
  have hphase : t.phase = s.phase := by
    obtain ⟨m, rfl, _⟩ := agreeButUnwritten_iff.mp h
    rfl
  unfold payloadProgress at hlen
  unfold rxByte
  rw [hphase]
  cases hp : s.phase <;> rw [hp] at hlen
  case enqRx => exact rxEnq_agree b h
  case ackRx => exact (payloadBlind_rxAck b).agree h
  case respRx => exact rxResp_agree b h hlen
  case eotRx => exact (payloadBlind_rxEot b).agree h
  all_goals exact h

/-! ## The step -/

theorem payloadBlind_setStreams (es : List Event) (bs : List Byte) :
    PayloadBlind (fun u => { u with events := es, rxStream := bs }) := ⟨fun _ _ => rfl, fun _ => le_rfl⟩

theorem payloadBlind_setEvents (es : List Event) : PayloadBlind (fun u => { u with events := es }) :=
  ⟨fun _ _ => rfl, fun _ => le_rfl⟩

/-- One step from two states that agree but for unwritten bytes: the same event with outcomes that agree. -/
theorem step_agree {s t : State} (hs : Inv s) (h : agreeButUnwritten s t) : outcomesAgree (step s) (step t) := by
  have hes (es : List Event) : agreeButUnwritten { s with events := es } { t with events := es } :=
    (payloadBlind_setEvents es).agree h
  obtain ⟨m, rfl, _⟩ := agreeButUnwritten_iff.mp h
  cases he : s.events with
  | nil =>
    rw [step_nil he, step_nil (s := withPayload m s) he]
    exact h
  | cons e es =>
    cases e with
    | regRd i =>
      rw [step_regRd he, step_regRd (s := withPayload m s) he]
      exact regRead_agree (hes es) i
    | regWr i v =>
      by_cases hi : i = 0x00
      · subst hi
        rw [step_cmd he, step_cmd (s := withPayload m s) he]
        exact runWord_cmd_agree v (hes es)
      · rw [step_regWr he hi, step_regWr (s := withPayload m s) he hi]
        exact (payloadBlind_regWrite i v).agree (hes es)
    | txAcc =>
      cases hb : txByte s with
      | some b =>
        rw [step_txAcc he hb, step_txAcc (s := withPayload m s) he hb]
        exact (payloadBlind_txAccept b).agree (hes es)
      | none =>
        rw [step_txAcc_none he hb, step_txAcc_none (s := withPayload m s) he hb, txValid_withPayload m s]
        split
        · rfl
        · exact hes es
    | rx =>
      by_cases hr : rxReady s = false ∨ s.rxStream = []
      · rw [step_rx_idle he hr, step_rx_idle (s := withPayload m s) he hr]
        exact hes es
      · obtain ⟨hready, hne⟩ := not_or.mp hr
        have hready : rxReady s = true := by simpa using hready
        obtain ⟨b, bs, hb⟩ := List.exists_cons_of_ne_nil hne
        rw [step_rx he hready hb, step_rx (s := withPayload m s) he hready hb]
        exact rxByte_agree b ((payloadBlind_setStreams es bs).agree h) hs.progress
    | rxTimeout =>
      rw [step_rxTimeout he, step_rxTimeout (s := withPayload m s) he]
      exact payloadBlind_rxTimeout.agree (hes es)
    | reset p =>
      rw [step_reset he, step_reset (s := withPayload m s) he]
      exact outcomesAgree_refl _

/-- Settles O50: the two steps have outcomes that agree, and the first answers a next state. -/
theorem unwrittenPayloadIsUnobservable : Obligations.UnwrittenPayloadIsUnobservable := by
  intro s t s' hs h hstep
  have hagree := step_agree hs h
  rw [hstep] at hagree
  exact next_of_outcomesAgree hagree

end Sys2Proof.Machine
end

section
/-! PROOFS about what a step moves (20_memory.md R72, R73, R76): the parameters, the operand registers and the two byte
streams, which the block's own operations leave as they are. -/

namespace Sys2Proof.Machine

/-! ## The operands and the streams -/

/-- The parameters, the operand registers and PL_PTR (10_state.md R21, 20_memory.md R76). -/
def operands (s : State) : Params × Word × BitVec 5 × Vector Byte 16 × Word :=
  (s.cfg, s.size, s.addrLen, s.addrChar, s.plPtr)

/-- The TX stream and the RX stream (20_memory.md R72, R73). -/
def streams (s : State) : List Byte × List Byte := (s.txStream, s.rxStream)

theorem operands_eq_iff {s t : State} : operands t = operands s ↔
    t.cfg = s.cfg ∧ t.size = s.size ∧ t.addrLen = s.addrLen ∧ t.addrChar = s.addrChar ∧ t.plPtr = s.plPtr := by
  simp [operands]

theorem streams_eq_iff {s : State} {tx rx : List Byte} :
    streams s = (tx, rx) ↔ s.txStream = tx ∧ s.rxStream = rx := by
  simp [streams]

/-- t has the operands and the streams of s. -/
structure Undisturbed (s t : State) : Prop where
  operands : operands t = operands s
  streams : streams t = streams s

theorem Undisturbed.refl (s : State) : Undisturbed s s := ⟨rfl, rfl⟩

theorem Undisturbed.trans {s t u : State} (hst : Undisturbed s t) (htu : Undisturbed t u) : Undisturbed s u :=
  ⟨htu.operands.trans hst.operands, htu.streams.trans hst.streams⟩

theorem undisturbed_setEvents (es : List Event) (s : State) : Undisturbed s { s with events := es } := ⟨rfl, rfl⟩

theorem undisturbed_accept (s : State) : Undisturbed s (accept s) := ⟨rfl, rfl⟩

/-! ## What leaves them as they are -/

theorem undisturbed_hdrBuild (op : Nibble) (s : State) : Undisturbed s (hdrBuild op s) := by
  rcases hdrBuild_cases op s with ⟨e, _, h⟩ | ⟨hd, _, h⟩ <;> rw [h] <;> exact ⟨rfl, rfl⟩

theorem undisturbed_commandBody (i : Instr) (s : State) : Undisturbed s (commandBody i s) := by
  cases i
  case hdrBuildRd => exact undisturbed_hdrBuild 0x0 s
  case hdrBuildWr => exact undisturbed_hdrBuild 0x8 s
  all_goals exact ⟨rfl, rfl⟩

/-- A command, accepted or rejected, writes no operand and no stream. -/
theorem undisturbed_of_exec_command {i : Instr} {s t : State} (hi : isCommand i = true) (h : exec i s = .next t) :
    Undisturbed s t := by
  rw [exec_eq_command hi] at h
  rcases command_cases h with ⟨_, ht⟩ | ⟨_, ht⟩ <;> cases ht
  · exact ⟨rfl, rfl⟩
  · exact (undisturbed_accept s).trans (undisturbed_commandBody i _)

theorem undisturbed_handshakeComplete (s : State) : Undisturbed s (handshakeComplete s) := by
  rcases handshakeComplete_cases s with ⟨_, h⟩ | ⟨_, _, h⟩ | ⟨_, _, ⟨e, _, h⟩ | ⟨hd, _, h⟩⟩ <;> rw [h] <;>
    exact ⟨rfl, rfl⟩

theorem undisturbed_rxAck (b : Byte) (s : State) : Undisturbed s (rxAck b s) := by
  unfold rxAck
  split <;> exact ⟨rfl, rfl⟩

theorem undisturbed_respLast (b : Byte) (s : State) : Undisturbed s (respLast b s) := by
  rcases respLast_cases b s with ⟨_, _, h⟩ | ⟨_, h⟩ <;> rw [h] <;> exact ⟨rfl, rfl⟩

theorem undisturbed_rxEot (b : Byte) (s : State) : Undisturbed s (rxEot b s) := by
  unfold rxEot
  split <;> exact ⟨rfl, rfl⟩

/-- The effect of a received byte, which is already taken from the RX stream, writes no operand and no stream. -/
theorem undisturbed_of_rxByte {b : Byte} {s t : State} (h : rxByte b s = .next t) : Undisturbed s t := by
  rcases rxByte_next_cases h with ⟨_, rfl⟩ | ⟨_, hlt, ⟨_, rfl⟩ | ⟨_, rfl⟩⟩ | ⟨_, rfl⟩ |
    ⟨_, ⟨_, rfl⟩ | ⟨_, _, rfl⟩ | ⟨_, rfl⟩ | ⟨_, rfl⟩⟩ | ⟨_, rfl⟩
  · exact .refl _
  · exact ⟨rfl, rfl⟩
  · have hecho : Undisturbed s { s with echo := s.echo.set s.idx.toNat b hlt } := ⟨rfl, rfl⟩
    exact hecho.trans (undisturbed_handshakeComplete _)
  · exact undisturbed_rxAck b s
  · exact ⟨rfl, rfl⟩
  · exact ⟨rfl, rfl⟩
  · exact ⟨rfl, rfl⟩
  · exact undisturbed_respLast b s
  · exact undisturbed_rxEot b s

theorem undisturbed_rxTimeout (s : State) : Undisturbed s (rxTimeout s) := by
  rcases rxTimeout_cases s with h | ⟨e, _, _, h⟩ <;> rw [h] <;> exact ⟨rfl, rfl⟩

theorem undisturbed_txAdvance (s : State) : Undisturbed s (txAdvance s) := by
  unfold txAdvance
  split
  case h_1 | h_2 => split <;> exact ⟨rfl, rfl⟩
  all_goals exact ⟨rfl, rfl⟩

/-! ## What writes them -/

/-- A byte sent writes no operand. -/
theorem operands_txAccept (b : Byte) (s : State) : operands (txAccept b s) = operands s :=
  (undisturbed_txAdvance s).operands

/-- A byte sent joins the TX stream at its end, and leaves the RX stream (20_memory.md R72). -/
theorem streams_txAccept (b : Byte) (s : State) : streams (txAccept b s) = (s.txStream ++ [b], s.rxStream) := by
  have hrx : (txAdvance s).rxStream = s.rxStream := (streams_eq_iff.mp (undisturbed_txAdvance s).streams).2
  rw [streams_eq_iff]
  exact ⟨rfl, hrx⟩

/-- A host write to a register other than CMD writes an operand only if it is legal and the block is not busy, and never
a parameter or a stream. -/
theorem regWrite_undisturbed_or_legal (i : Byte) (v : Word) (s : State) :
    Undisturbed s (regWrite i v s) ∨
    (busy s = false ∧ legalOperandWrite i v ∧ (regWrite i v s).cfg = s.cfg ∧ streams (regWrite i v s) = streams s) := by
  rcases regWrite_cases i v s with h | ⟨hb, ⟨hi, h⟩ | ⟨hi, hv, h⟩ | ⟨hi, h⟩ | ⟨hlo, hhi, hv, h⟩⟩ <;> rw [h]
  · exact .inl ⟨rfl, rfl⟩
  · exact .inr ⟨hb, .inl (BitVec.eq_of_toNat_eq hi), rfl, rfl⟩
  · exact .inr ⟨hb, .inr (.inl ⟨BitVec.eq_of_toNat_eq hi, hv⟩), rfl, rfl⟩
  · exact .inr ⟨hb, .inr (.inr (.inl (BitVec.eq_of_toNat_eq hi))), rfl, rfl⟩
  · exact .inr ⟨hb, .inr (.inr (.inr ⟨hlo, hhi, hv⟩)), rfl, rfl⟩

/-! ## Over every step -/

/-- The next event is a legal host write that the block, not being busy, carries out. -/
def acceptsOperandWrite (s : State) : Prop :=
  busy s = false ∧ ∃ i v es, s.events = .regWr i v :: es ∧ legalOperandWrite i v

/-- Everything a step can do to the operands and the streams: nothing, a RESET, an operand write, one byte sent, or one
byte received. -/
theorem step_operands_streams_cases {s t : State} (h : step s = .next t) :
    Undisturbed s t ∨
    (nextIsReset s ∧ streams t = streams s) ∨
    (acceptsOperandWrite s ∧ t.cfg = s.cfg ∧ streams t = streams s) ∨
    (∃ b es, s.events = .txAcc :: es ∧ txByte s = some b ∧ operands t = operands s ∧
      streams t = (s.txStream ++ [b], s.rxStream)) ∨
    (∃ b bs es, s.events = .rx :: es ∧ rxReady s = true ∧ s.rxStream = b :: bs ∧ operands t = operands s ∧
      streams t = (s.txStream, bs)) := by
  rcases step_next_cases h with ⟨_, rfl⟩ | ⟨i, v, es, _, rfl⟩ | ⟨v, e, es, _, _, rfl⟩ |
    ⟨v, i, es, _, _, hi, hx⟩ | ⟨i, v, es, he, _, rfl⟩ | ⟨b, es, he, hb, rfl⟩ | ⟨es, _, _, _, rfl⟩ |
    ⟨b, bs, es, he, hr, hb, hx⟩ | ⟨es, _, _, rfl⟩ | ⟨es, _, rfl⟩ | ⟨p, c, es, he, _, rfl⟩
  · exact .inl (.refl _)
  · exact .inl ⟨rfl, rfl⟩
  · exact .inl ⟨rfl, rfl⟩
  · exact .inl ((undisturbed_setEvents es s).trans (undisturbed_of_exec_command hi hx))
  · rcases regWrite_undisturbed_or_legal i v { s with events := es } with hu | ⟨hbusy, hv, hcfg, hst⟩
    · exact .inl ((undisturbed_setEvents es s).trans hu)
    · exact .inr (.inr (.inl ⟨⟨hbusy, i, v, es, he, hv⟩, hcfg, hst⟩))
  · exact .inr (.inr (.inr (.inl ⟨b, es, he, hb, operands_txAccept b _, streams_txAccept b _⟩)))
  · exact .inl ⟨rfl, rfl⟩
  · obtain ⟨hop, hst⟩ := undisturbed_of_rxByte hx
    exact .inr (.inr (.inr (.inr ⟨b, bs, es, he, hr, hb, hop, hst⟩)))
  · exact .inl ⟨rfl, rfl⟩
  · exact .inl ((undisturbed_setEvents es s).trans (undisturbed_rxTimeout _))
  · exact .inr (.inl ⟨⟨p, es, he⟩, rfl⟩)

/-- A step changes an operand only by a RESET or an accepted operand write, which leaves the parameters. -/
theorem step_operands_cases {s t : State} (h : step s = .next t) :
    operands t = operands s ∨ nextIsReset s ∨ (acceptsOperandWrite s ∧ t.cfg = s.cfg) := by
  rcases step_operands_streams_cases h with hu | ⟨hr, _⟩ | ⟨hw, hcfg, _⟩ | ⟨_, _, _, _, hop, _⟩ |
    ⟨_, _, _, _, _, _, hop, _⟩
  · exact .inl hu.operands
  · exact .inr (.inl hr)
  · exact .inr (.inr ⟨hw, hcfg⟩)
  · exact .inl hop
  · exact .inl hop

/-- Settles O16: by the three things a step can do to the operands. -/
theorem operandsChangeOnlyByHostWrite : Obligations.OperandsChangeOnlyByHostWrite := by
  intro s t h
  rcases step_operands_cases h with hop | hr | ⟨hw, hcfg⟩
  · obtain ⟨hcfg, hsize, hlen, hchar, hptr⟩ := operands_eq_iff.mp hop
    exact ⟨fun hne => absurd hcfg hne, fun hne => by simp [hsize, hlen, hchar, hptr] at hne⟩
  · exact ⟨fun _ => hr, fun _ => .inl hr⟩
  · exact ⟨fun hne => absurd hcfg hne, fun _ => .inr hw⟩

/-- A step leaves both streams, or moves one byte of one of them. -/
theorem step_streams_cases {s t : State} (h : step s = .next t) :
    streams t = streams s ∨
    (∃ b es, s.events = .txAcc :: es ∧ txByte s = some b ∧ streams t = (s.txStream ++ [b], s.rxStream)) ∨
    (∃ b bs es, s.events = .rx :: es ∧ rxReady s = true ∧ s.rxStream = b :: bs ∧ streams t = (s.txStream, bs)) := by
  rcases step_operands_streams_cases h with hu | ⟨_, hst⟩ | ⟨_, _, hst⟩ | ⟨b, es, he, hb, _, hst⟩ |
    ⟨b, bs, es, he, hr, hb, _, hst⟩
  · exact .inl hu.streams
  · exact .inl hst
  · exact .inl hst
  · exact .inr (.inl ⟨b, es, he, hb, hst⟩)
  · exact .inr (.inr ⟨b, bs, es, he, hr, hb, hst⟩)

/-- An enabled TX_ACC always sends the offered byte (20_memory.md R72). -/
theorem txStream_of_step_txAcc {s t : State} {b : Byte} {es : List Event} (h : step s = .next t)
    (he : s.events = .txAcc :: es) (hb : txByte s = some b) : t.txStream = s.txStream ++ [b] := by
  rw [step_txAcc he hb] at h
  cases h
  rfl

/-- An enabled RX always takes the partner's next byte (20_memory.md R73). -/
theorem rxStream_of_step_rx {s t : State} {b : Byte} {bs : List Byte} {es : List Event} (h : step s = .next t)
    (he : s.events = .rx :: es) (hr : rxReady s = true) (hb : s.rxStream = b :: bs) : t.rxStream = bs := by
  rw [step_rx he hr hb] at h
  exact (streams_eq_iff.mp (undisturbed_of_rxByte h).streams).2

/-- Settles O47: what a step can do to the streams, and what an enabled transfer always does. -/
theorem streamsMoveOneByteInOrder : Obligations.StreamsMoveOneByteInOrder := by
  intro s t h
  have hsent := fun b es => txStream_of_step_txAcc (b := b) (es := es) h
  have htaken := fun b bs es => rxStream_of_step_rx (b := b) (bs := bs) (es := es) h
  rcases step_streams_cases h with hst | ⟨b, es, he, hb, hst⟩ | ⟨b, bs, es, he, hr, hb, hst⟩ <;>
    obtain ⟨htx, hrx⟩ := streams_eq_iff.mp hst
  · exact ⟨.inl htx, hsent, .inl hrx, htaken⟩
  · exact ⟨.inr ⟨b, es, he, hb, htx⟩, hsent, .inl hrx, htaken⟩
  · exact ⟨.inl htx, hsent, .inr ⟨b, es, he, hr, hb.trans (congrArg (b :: ·) hrx.symm)⟩, htaken⟩

end Sys2Proof.Machine
end

section
/-! PROOFS of the statements about the encodings (30_encoding.md): the rejected command words, the hexadecimal digit and
the hexadecimal field. -/

namespace Sys2Proof.Machine

/-! ## Rejected command words -/

/-- A command word that is ill-formed, or that comes while a link command runs, only sets HOSTERR (30_encoding.md R96,
40_host_interface.md R130). -/
theorem runWord_cmd_of_rejected {s : State} {v : Word} (h : busy s = true ∨ illFormedWord v) :
    runWord (.cmd v) s = .next (refuseWrite s) := by
  cases hd : decodeCmd v with
  | error e => simp [runWord, decode, hd, runUnlisted]
  | ok i =>
    have hb : busy s = true := h.resolve_right (not_illFormedWord_of_decodeCmd hd)
    calc runWord (.cmd v) s = exec i s := by simp [runWord, decode, hd]
      _ = command (commandBody i) s := exec_eq_command (decodeCmd_isCommand hd) s
      _ = .next (refuseWrite s) := command_of_busy hb

/-- Settles O2: the rejected words by the decoder's cases, their step by the two reasons for a rejection. -/
theorem rejectedCommandWordOnlySetsHosterr : Obligations.RejectedCommandWordOnlySetsHosterr := by
  refine ⟨decodeCmd_isError_iff, ?_, .inl (.inl rfl), rfl, .inr (.inr ⟨by decide, by decide⟩)⟩
  intro s v es he h
  have hrej : busy { s with events := es } = true ∨ illFormedWord v := h
  rw [step_cmd he, runWord_cmd_of_rejected hrej]
  rfl

/-! ## The hexadecimal digit -/

/-- The code point of a digit (30_encoding.md R83). -/
theorem hexchar_toNat (n : Nibble) :
    (hexchar n).toNat = if n.toNat < 10 then 0x30 + n.toNat else 0x41 + (n.toNat - 10) := by
  unfold hexchar
  by_cases h : n.toNat < 10
  · have hlt : n < 10 := h
    rw [if_pos hlt, if_pos h]
    bv_omega
  · have hge : ¬ n < 10 := h
    rw [if_neg hge, if_neg h]
    bv_omega

/-- Settles O4: the code point by the two ranges of R83; the largest is that of 'F'. -/
theorem hexcharIsUppercaseHex : Obligations.HexcharIsUppercaseHex := by
  intro n
  refine ⟨hexchar_toNat n, ?_⟩
  have hn := n.isLt
  rw [hexchar_toNat]
  split <;> omega

/-! ## The hexadecimal field -/

@[simp] theorem hexField_length (w v : Nat) : (hexField w v).length = w := by
  induction w generalizing v with
  | zero => rfl
  | succ w ih => simp [hexField, ih]

/-- Byte k is the digit of weight 16^(w-1-k) (30_encoding.md R84). That v has no further digits is not needed: the field
holds the lowest w of them. -/
theorem hexField_getElem? {w k : Nat} (hk : k < w) (v : Nat) :
    (hexField w v)[k]? = some (hexchar (BitVec.ofNat 4 (v / 16 ^ (w - 1 - k)))) := by
  induction w generalizing v with
  | zero => omega
  | succ w ih =>
    rcases Nat.lt_succ_iff_lt_or_eq.mp hk with hlt | rfl
    · have hweight : 16 * 16 ^ (w - 1 - k) = 16 ^ (w + 1 - 1 - k) := by
        rw [← Nat.pow_succ']
        congr 1
        omega
      rw [hexField, List.getElem?_append_left (by simpa using hlt), ih hlt, Nat.div_div_eq_div_mul, hweight]
    · simp [hexField]

/-- Settles O5: the length and each byte of the field, by induction on its width. -/
theorem hexFieldDigits : Obligations.HexFieldDigits :=
  fun w v _ => ⟨hexField_length w v, fun _ hk => hexField_getElem? hk v⟩

end Sys2Proof.Machine
end

section
/-! PROOFS about the header encoder (42_header_encoder.md): each check, the encoder by its checks, the bytes of the
header, and the statement. -/

namespace Sys2Proof.Machine

/-! ## The digits -/

theorem isOctalDigit_iff (c : Byte) : isOctalDigit c = true ↔ 0x30 ≤ c.toNat ∧ c.toNat ≤ 0x37 := by
  simp [isOctalDigit]

theorem all_isOctalDigit_iff (ds : List Byte) :
    ds.all isOctalDigit = true ↔ ∀ c ∈ ds, 0x30 ≤ c.toNat ∧ c.toNat ≤ 0x37 := by
  simp only [List.all_eq_true, isOctalDigit_iff]

/-- The fold of R163 is the value of the digits in base 8, which Mathlib takes least significant first. -/
theorem octalValue_eq_ofDigits (ds : List Byte) :
    octalValue ds = Nat.ofDigits 8 (ds.map (fun c => c.toNat - 0x30)).reverse := by
  induction ds using List.reverseRecOn with
  | nil => rfl
  | append_singleton ds c ih =>
    have hlast : octalValue (ds ++ [c]) = 8 * octalValue ds + (c.toNat - 0x30) := by
      simp [octalValue]
    rw [hlast, ih, List.map_append, List.map_singleton, List.reverse_append, List.reverse_singleton,
      List.singleton_append, Nat.ofDigits_cons]
    simp [Nat.add_comm]

/-- A character that is no octal digit is an address error (42_header_encoder.md R162). -/
theorem parseDigits_of_nonOctal {ds : List Byte} (h : ∃ c ∈ ds, c.toNat < 0x30 ∨ 0x37 < c.toNat) :
    parseDigits ds = .error .invalidAddress := by
  obtain ⟨c, hc, hout⟩ := h
  have hne : ds ≠ [] := List.ne_nil_of_mem hc
  have hall : ds.all isOctalDigit = false := by
    rw [Bool.eq_false_iff, Ne, all_isOctalDigit_iff]
    intro hin
    have := hin c hc
    omega
  rw [parseDigits, if_neg hne, if_pos hall]

/-- Of octal digits only the range is left to check (42_header_encoder.md R164). -/
theorem parseDigits_of_octal {ds : List Byte} (hne : ds ≠ [])
    (hin : ∀ c ∈ ds, 0x30 ≤ c.toNat ∧ c.toNat ≤ 0x37) :
    parseDigits ds =
      if octalValue ds > 0xFFFF then .error .invalidAddress else .ok (BitVec.ofNat 16 (octalValue ds)) := by
  have hall : ¬ ds.all isOctalDigit = false := by
    rw [Bool.not_eq_false, all_isOctalDigit_iff]
    exact hin
  rw [parseDigits, if_neg hne, if_neg hall]

/-! ## The size -/

/-- The size check passes for every 16-bit size (42_header_encoder.md R167, 90_conflicts.md C3). -/
theorem splitSize_eq (size : Word) : splitSize size = .ok (size.toNat / 256, size.toNat % 256) := by
  have := size.isLt
  rw [splitSize, if_neg (by omega)]

/-! ## The encoder by its checks -/

section
variable {s : State} {p : Byte} {ds : List Byte} {mc : Nibble} (op : Nibble)

/-- No prefix character (42_header_encoder.md R161). -/
theorem encodeHeader_of_empty (hstr : addrString s = []) : encodeHeader op s = .error .unknownMemoryType := by
  simp [encodeHeader, memTypeOf, hstr]

/-- A prefix that `P_MEMTYPE` does not map (42_header_encoder.md R161). -/
theorem encodeHeader_of_unknownPrefix (hstr : addrString s = p :: ds) (hnone : s.cfg.memType.lookup p = none) :
    encodeHeader op s = .error .unknownMemoryType := by
  simp [encodeHeader, memTypeOf, hstr, hnone]

/-- After a known prefix an error in the digits decides. -/
theorem encodeHeader_of_digitsError {e : ErrCode} (hstr : addrString s = p :: ds)
    (hsome : s.cfg.memType.lookup p = some mc) (hdigits : parseDigits ds = .error e) :
    encodeHeader op s = .error e := by
  simp [encodeHeader, memTypeOf, hstr, hsome, hdigits]

/-- A known prefix and good digits are enough for a header, because the size check always passes. -/
theorem encodeHeader_of_digits {a16 : Word} (hstr : addrString s = p :: ds)
    (hsome : s.cfg.memType.lookup p = some mc) (hdigits : parseDigits ds = .ok a16) :
    encodeHeader op s = .ok (buildHeader s.cfg.clientId op mc a16 (s.size.toNat / 256) (s.size.toNat % 256)) := by
  simp [encodeHeader, memTypeOf, hstr, hsome, hdigits, splitSize_eq]

end

/-! ## The bytes of the header -/

/-- The digit of weight 1 of n. -/
abbrev lowDigit (n : Nat) : Byte := hexchar (BitVec.ofNat 4 n)

theorem hexField_two (v : Nat) : hexField 2 v = [lowDigit (v / 16), lowDigit v] := rfl

theorem hexField_four (v : Nat) :
    hexField 4 v = [lowDigit (v / 4096), lowDigit (v / 256), lowDigit (v / 16), lowDigit v] := by
  simp [hexField, Nat.div_div_eq_div_mul]

/-- A 4-bit value in a field of two digits has the leading digit '0'. -/
theorem hexField_two_nibble (n : Nibble) : hexField 2 n.toNat = [0x30, hexchar n] := by
  have hlead : n.toNat / 16 = 0 := Nat.div_eq_of_lt n.isLt
  have hzero : lowDigit 0 = 0x30 := rfl
  rw [hexField_two, hlead, hzero, lowDigit, BitVec.ofNat_toNat, BitVec.setWidth_eq]

/-- The checksum span of the header, indices 1 to 15 (30_encoding.md R87, R89). -/
theorem headerSpan_eq (client op mc : Nibble) (a16 : Word) (blk last : Nat) :
    headerSpan client op mc a16 blk last =
      [0x30, hexchar client, hexchar op, hexchar mc,
       lowDigit (a16.toNat / 4096), lowDigit (a16.toNat / 256), lowDigit (a16.toNat / 16), lowDigit a16.toNat,
       lowDigit (blk / 16), lowDigit blk, lowDigit (last / 16), lowDigit last, 0x30, 0x30, 0x17] := by
  have hmaster : hexField 2 0x00 = [0x30, 0x30] := rfl
  rw [headerSpan, headerBody, hmaster, hexField_two_nibble, hexField_four, hexField_two, hexField_two]
  rfl

/-- SOH, the span, and its fold (42_header_encoder.md R168). -/
theorem buildHeader_toList (client op mc : Nibble) (a16 : Word) (blk last : Nat) :
    (buildHeader client op mc a16 blk last).toList =
      0x01 :: (headerSpan client op mc a16 blk last ++ [fold (headerSpan client op mc a16 blk last)]) := rfl

/-- Settles O23: the checks in the order in which the encoder makes them, then the header of the success. -/
theorem headerEncoderChecksAndLayout : Obligations.HeaderEncoderChecksAndLayout := by
  intro s op
  refine ⟨fun hnil => encodeHeader_of_empty op hnil, fun p ds hstr => ?_⟩
  refine ⟨fun hnone => encodeHeader_of_unknownPrefix op hstr hnone, fun mc hsome => ?_⟩
  have invalid (h : parseDigits ds = .error .invalidAddress) : encodeHeader op s = .error .invalidAddress :=
    encodeHeader_of_digitsError op hstr hsome h
  refine ⟨fun hnil => invalid (by rw [hnil]; rfl), fun hout => invalid (parseDigits_of_nonOctal hout), ?_⟩
  intro hne hin
  have hparse := parseDigits_of_octal hne hin
  rw [octalValue_eq_ofDigits] at hparse
  refine ⟨fun hbig => invalid (by rw [hparse, if_pos hbig]), fun hfits => ?_⟩
  rw [if_neg (Nat.not_lt.mpr hfits)] at hparse
  refine ⟨_, encodeHeader_of_digits op hstr hsome hparse, ?_⟩
  rw [buildHeader_toList, headerSpan_eq, BitVec.toNat_ofNat,
    Nat.mod_eq_of_lt (b := 2 ^ 16) (Nat.lt_succ_of_le hfits)]

end Sys2Proof.Machine
end

section
/-! PROOFS of the statements about the host register port (40_host_interface.md R123 to R128): what a read returns and
what a write does, by the index. -/

namespace Sys2Proof.Machine

/-! ## Host reads -/

/-- A host read returns the number that the register holds, and changes nothing else (40_host_interface.md R123). -/
theorem step_regRd_of_toNat {s : State} {i : Byte} {es : List Event} {v : Nat} (he : s.events = .regRd i :: es)
    (hv : (regValue s i).toNat = v) : step s = .next { s with events := es, regRdata := BitVec.ofNat 16 v } := by
  have hvalue : BitVec.ofNat 16 v = regValue s i := by rw [← hv, BitVec.ofNat_toNat, BitVec.setWidth_eq]
  rw [step_regRd he, regRead_eq, hvalue]
  rfl

/-- Appending puts the first word above the second. -/
theorem toNat_append_eq_mul_add {m n : Nat} (x : BitVec m) (y : BitVec n) :
    (x ++ y).toNat = x.toNat * 2 ^ n + y.toNat := by
  rw [BitVec.toNat_append, ← Nat.shiftLeft_add_eq_or_of_lt y.isLt, Nat.shiftLeft_eq]

theorem bit_toNat (b : Bool) : (bit b).toNat = b.toNat := by cases b <;> rfl

theorem spanBit_toNat (c : CsumSpan) : (spanBit c).toNat = if c = .dataEtx then 1 else 0 := by cases c <;> rfl

/-- The places of the bits of STATUS (10_state.md R40). -/
theorem statusWord_toNat (s : State) :
    (statusWord s).toNat = (busy s).toNat + 2 * s.done.toNat + 4 * s.hostErr.toNat + 8 * s.hdrValid.toNat
      + 16 * s.err.code.toNat + 256 * s.phase.code.toNat + 4096 * s.stxOk.toNat + 8192 * s.etxOk.toNat
      + 16384 * s.csumOk.toNat := by
  simp only [statusWord, toNat_append_eq_mul_add, bit_toNat, BitVec.ofNat_eq_ofNat, BitVec.toNat_zero]
  omega

/-- The places of the bits of CONFIG (10_state.md R21). -/
theorem configWord_toNat (s : State) :
    (configWord s).toNat = s.cfg.clientId.toNat + 16 * s.cfg.strictResponse.toNat
      + 32 * (if s.cfg.respCsumSpan = .dataEtx then 1 else 0) := by
  simp only [configWord, toNat_append_eq_mul_add, bit_toNat, spanBit_toNat, BitVec.ofNat_eq_ofNat, BitVec.toNat_zero]
  omega

/-- A byte on the read data output is zero-extended (10_state.md R41). -/
theorem byte_zeroExtended_toNat (b : Byte) : (b.setWidth 16).toNat = b.toNat :=
  BitVec.toNat_setWidth_of_le (by decide)

/-- An element of a register file is inside it, and is what the total lookup finds. -/
theorem getD_of_toList_getElem? {n k : Nat} {xs : Vector Byte n} {b : Byte} (h : xs.toList[k]? = some b) :
    k < n ∧ xs[k]?.getD 0 = b := by
  obtain ⟨hk, _⟩ := List.getElem?_eq_some_iff.mp h
  rw [Vector.getElem?_toList] at h
  exact ⟨by simpa using hk, by simp [h]⟩

/-- From index 0x0D on stand `ECHO`, `ADDR_CHAR` and `HDR` (10_state.md R41), then the reserved indices. -/
theorem regValue_of_ge {i : Byte} (h : 0x0D ≤ i.toNat) (s : State) :
    regValue s i =
      if 0x0D ≤ i.toNat ∧ i.toNat ≤ 0x0F then (s.echo[i.toNat - 0x0D]?.getD 0).setWidth 16
      else if 0x10 ≤ i.toNat ∧ i.toNat ≤ 0x1F then (s.addrChar[i.toNat - 0x10]?.getD 0).setWidth 16
      else if 0x20 ≤ i.toNat ∧ i.toNat ≤ 0x30 then (s.hdr[i.toNat - 0x20]?.getD 0).setWidth 16
      else 0x0000 := by
  unfold regValue
  split
  case h_13 => rfl
  all_goals omega

section
variable {s : State} {i b : Byte} {k : Nat}

theorem regValue_echo (hi : i.toNat = 0x0D + k) (hb : s.echo.toList[k]? = some b) :
    regValue s i = b.setWidth 16 := by
  obtain ⟨hk, hget⟩ := getD_of_toList_getElem? hb
  rw [regValue_of_ge (by omega), if_pos (by omega), hi, Nat.add_sub_cancel_left, hget]

theorem regValue_addrChar (hi : i.toNat = 0x10 + k) (hb : s.addrChar.toList[k]? = some b) :
    regValue s i = b.setWidth 16 := by
  obtain ⟨hk, hget⟩ := getD_of_toList_getElem? hb
  rw [regValue_of_ge (by omega), if_neg (by omega), if_pos (by omega), hi, Nat.add_sub_cancel_left, hget]

theorem regValue_hdr (hi : i.toNat = 0x20 + k) (hb : s.hdr.toList[k]? = some b) :
    regValue s i = b.setWidth 16 := by
  obtain ⟨hk, hget⟩ := getD_of_toList_getElem? hb
  rw [regValue_of_ge (by omega), if_neg (by omega), if_neg (by omega), if_pos (by omega), hi, Nat.add_sub_cancel_left,
    hget]

end

/-- Settles O11: the number that the register at each index stands for. -/
theorem registerReadReturnsMappedValue : Obligations.RegisterReadReturnsMappedValue := by
  intro s i es he returns
  have reads {v : Nat} (hv : (regValue s i).toNat = v) : returns v := step_regRd_of_toNat he hv
  have readsByte {b : Byte} (hb : regValue s i = b.setWidth 16) : returns b.toNat :=
    reads (by rw [hb, byte_zeroExtended_toNat])
  refine ⟨?cmd, ?status, ?config, ?csum, ?size, ?addrLen, ?plPtr, ?plDataAbove, ?plDataBelow, ?plLen, ?respStx,
    ?respEtx, ?respCk, ?rcsum, ?echo, ?addrChar, ?hdr, ?reserved⟩
  case cmd => rintro rfl; exact reads rfl
  case status => rintro rfl; exact reads (statusWord_toNat s)
  case config => rintro rfl; exact reads (configWord_toNat s)
  case addrLen => rintro rfl; exact reads (BitVec.toNat_setWidth_of_le (by decide))
  case plDataAbove => rintro rfl hle; exact reads (congrArg BitVec.toNat (plData_of_le hle))
  case plDataBelow => rintro rfl hlt; exact readsByte (plData_of_lt hlt)
  case size | plPtr | plLen => rintro rfl; exact reads rfl
  case csum | respStx | respEtx | respCk | rcsum => rintro rfl; exact readsByte rfl
  case echo => exact fun k b hi hb => readsByte (regValue_echo hi hb)
  case addrChar => exact fun k b hi hb => readsByte (regValue_addrChar hi hb)
  case hdr => exact fun k b hi hb => readsByte (regValue_hdr hi hb)
  case reserved => exact fun hi => reads (by rw [regValue_of_reserved hi]; rfl)

/-! ## Host writes -/

/-- A command word that decodes runs its command. -/
theorem runWord_cmd_of_decodeCmd {v : Word} {c : Instr} (h : decodeCmd v = .ok c) (s : State) :
    runWord (.cmd v) s = exec c s := by
  simp [runWord, decode, h]

/-- Which writes to an operand register are legal, by the number of the index (10_state.md R41). -/
theorem legalOperandWrite_iff {i : Byte} {v : Word} :
    legalOperandWrite i v ↔ i.toNat = 0x04 ∨ (i.toNat = 0x05 ∧ v.toNat ≤ 16) ∨ i.toNat = 0x06 ∨
      (0x10 ≤ i.toNat ∧ i.toNat ≤ 0x1F ∧ v.toNat ≤ 0xFF) := by
  simp only [legalOperandWrite, ← BitVec.toNat_inj]
  rfl

/-- What is no legal write to an operand register leaves nothing but HOSTERR changed (10_state.md R29). -/
theorem regWrite_of_illegal {i : Byte} {v : Word} (h : ¬ legalOperandWrite i v) (s : State) :
    regWrite i v s = refuseWrite s := by
  rw [legalOperandWrite_iff] at h
  rcases regWrite_cases i v s with hr | ⟨_, ⟨hi, _⟩ | ⟨hi, hv, _⟩ | ⟨hi, _⟩ | ⟨hlo, hhi, hv, _⟩⟩
  · exact hr
  all_goals omega

section
variable {s : State} {v : Word} (hb : busy s = false)
include hb

theorem regWrite_size : regWrite 0x04 v s = { s with size := v } := by
  simp [regWrite, hb]

theorem regWrite_addrLen (hv : v.toNat ≤ 16) : regWrite 0x05 v s = { s with addrLen := v.setWidth 5 } := by
  simp [regWrite, hb, writeAddrLen, hv]

theorem regWrite_plPtr : regWrite 0x06 v s = { s with plPtr := v } := by
  simp [regWrite, hb]

theorem regWrite_addrChar {i : Byte} {k : Nat} (hi : i.toNat = 0x10 + k) (hk : k < 16) (hv : v.toNat ≤ 0xFF) :
    regWrite i v s = { s with addrChar := s.addrChar.setIfInBounds k (v.setWidth 8) } := by
  unfold regWrite
  rw [if_neg (by simp [hb])]
  split
  case h_4 => rw [if_pos (by omega), writeAddrChar, if_pos hv, hi, Nat.add_sub_cancel_left]
  all_goals omega

end

section
variable {s : State} {i : Byte} {v : Word} {es : List Event} (he : s.events = .regWr i v :: es)
include he

/-- While BUSY = 1 every host write is ignored, CMD's too (40_host_interface.md R124, R130). -/
theorem step_regWr_of_busy (hb : busy s = true) : step s = .next { s with events := es, hostErr := true } := by
  have hb' : busy { s with events := es } = true := hb
  by_cases hi : i = 0x00
  · subst hi
    rw [step_cmd he, runWord_cmd_of_rejected (.inl hb')]
    rfl
  · rw [step_regWr he hi, regWrite_of_busy i v hb']
    rfl

/-- An illegal write to another register than CMD is ignored, busy or not (40_host_interface.md R124 to R128). -/
theorem step_regWr_of_illegal (hi : i ≠ 0x00) (hv : ¬ legalOperandWrite i v) :
    step s = .next { s with events := es, hostErr := true } := by
  rw [step_regWr he hi, regWrite_of_illegal hv]
  rfl

end

/-- Settles O12: a write to CMD by its decoding, a legal write by its register, and every other write ignored. -/
theorem registerWriteRules : Obligations.RegisterWriteRules := by
  intro s i v es he ignored
  refine ⟨step_regWr_of_busy he, fun hb => ?_⟩
  have hb' : busy { s with events := es } = false := hb
  have not_cmd (hi : 0 < i.toNat) : i ≠ 0x00 := fun h => Nat.ne_of_gt hi (congrArg BitVec.toNat h)
  have illegal (hi : 0 < i.toNat) (hv : ¬ legalOperandWrite i v) : ignored :=
    step_regWr_of_illegal he (not_cmd hi) hv
  refine ⟨?command, ?badCommand, ?size, ?addrLen, ?addrLenAbove, ?plPtr, ?addrChar, ?addrCharAbove, ?readOnly⟩
  case command =>
    rintro c rfl hd
    rw [step_cmd he, runWord_cmd_of_decodeCmd hd]
  case badCommand =>
    rintro e rfl hd
    have hill : illFormedWord v := (decodeCmd_isError_iff v).mp ⟨e, hd⟩
    show step s = _
    rw [step_cmd he, runWord_cmd_of_rejected (.inr hill)]
    rfl
  case size =>
    rintro rfl
    rw [step_regWr he (by decide), regWrite_size hb']
  case addrLen =>
    rintro rfl hv
    rw [step_regWr he (by decide), regWrite_addrLen hb' hv, BitVec.ofNat_toNat]
  case plPtr =>
    rintro rfl
    rw [step_regWr he (by decide), regWrite_plPtr hb']
  case addrChar =>
    intro k hi hk hv
    refine ⟨s.addrChar.setIfInBounds k (v.setWidth 8), ?_, ?_⟩
    · rw [Vector.toList_setIfInBounds, BitVec.ofNat_toNat]
    · rw [step_regWr he (not_cmd (by omega)), regWrite_addrChar hb' hi hk hv]
  case addrLenAbove =>
    intro hi hv
    have hindex : i.toNat = 0x05 := congrArg BitVec.toNat hi
    exact illegal (by omega) (by rw [legalOperandWrite_iff]; omega)
  case addrCharAbove =>
    intro k hi hk hv
    exact illegal (by omega) (by rw [legalOperandWrite_iff]; omega)
  case readOnly =>
    intro hi
    exact illegal (by omega) (by rw [legalOperandWrite_iff]; omega)

end Sys2Proof.Machine
end

section
/-! PROOFS of the statements about the events of the host interface (40_host_interface.md): events that are not enabled,
the acceptance of a command, and the read deadline by phase. -/

namespace Sys2Proof.Machine

/-! ## Events that are not enabled -/

/-- While `tx_valid` = 0 the block offers no byte (40_host_interface.md R121). -/
theorem txByte_of_not_txValid {s : State} (h : txValid s = false) : txByte s = none := by
  cases hb : txByte s with
  | none => rfl
  | some b => exact absurd h (by simp [(txValid_of_txByte hb).1])

/-- Settles O8: TX_ACC by the byte that is not offered, RX by the byte that is not taken. -/
theorem eventNotEnabledChangesNothing : Obligations.EventNotEnabledChangesNothing := by
  intro s es
  refine ⟨fun he hv => ?_, step_rx_idle, step_nil⟩
  simp [step_txAcc_none he (txByte_of_not_txValid hv), hv]

/-! ## The acceptance of a command -/

/-- A command word is accepted while BUSY = 0, and then the command's body runs (40_host_interface.md R129). -/
theorem exec_command_of_idle {i : Instr} {s : State} (hi : isCommand i = true) (hb : busy s = false) :
    exec i s = .next (commandBody i (accept s)) := by
  rw [exec_eq_command hi, command_of_idle hb]

/-- HDR_BUILD ends with DONE = 1, header or error (42_header_encoder.md R170 to R172). -/
theorem hdrBuild_done (op : Nibble) (s : State) : (hdrBuild op s).done = true := by
  rcases hdrBuild_cases op s with ⟨e, _, h⟩ | ⟨hd, _, h⟩
  · rw [h, raise_done]
  · rw [h]

/-- A local command ends with DONE = 1 (40_host_interface.md R129). -/
theorem commandBody_done_of_local {i : Instr} (hi : isCommand i = true)
    (hl : ¬ (i = .testConnection ∨ i = .readValue)) (s : State) : (commandBody i s).done = true := by
  cases i
  case csumClear | csumFold => rfl
  case hdrBuildRd => exact hdrBuild_done 0x0 s
  case hdrBuildWr => exact hdrBuild_done 0x8 s
  all_goals simp [isCommand] at hi hl

/-- A link command starts in ENQ_TX and leaves DONE and ERR as the acceptance left them. -/
theorem commandBody_of_link {i : Instr} (hl : i = .testConnection ∨ i = .readValue) (s : State) :
    (commandBody i s).done = s.done ∧ (commandBody i s).err = s.err ∧ busy (commandBody i s) = true := by
  rcases hl with rfl | rfl <;> exact ⟨rfl, rfl, rfl⟩

/-- Settles O14: the accepted state, then DONE of a local and of a link command. -/
theorem acceptanceClearsResults : Obligations.AcceptanceClearsResults := by
  intro s i hi hb
  have hb' : busy { s with hostErr := false, done := false, err := .none } = false := hb
  refine ⟨?_, commandBody i (accept s), exec_command_of_idle hi hb, ?_, ?_, ?_⟩
  · rw [exec_command_of_idle hi hb, exec_command_of_idle hi hb']
    rfl
  · rw [commandBody_hostErr, accept_hostErr]
  · constructor
    · intro hd
      by_contra hl
      rw [commandBody_done_of_local hi hl] at hd
      cases hd
    · exact fun hl => (commandBody_of_link hl _).1
  · intro hl
    exact (commandBody_of_link hl (accept s)).2

/-! ## The read deadline -/

section
variable {s : State}

/-- The deadline in a phase that waits for a reply (41_handshake.md R146, 45_read_transaction.md R224, R227). -/
theorem rxTimeout_of_reply (h : s.phase ∈ [.enqRx, .ackRx, .eotRx]) :
    rxTimeout s = { s with err := .timeout, done := true, phase := .idle } := by
  simp only [List.mem_cons, List.not_mem_nil, or_false] at h
  rcases h with hp | hp | hp <;>
  · have hb : busy s = true := by rw [busy, hp]; rfl
    rw [← raise_of_busy hb, rxTimeout, hp]

/-- The deadline in the response, at every IDX (44_response_parser.md R206). -/
theorem rxTimeout_of_respRx (hp : s.phase = .respRx) :
    rxTimeout s = { s with err := .shortRead, done := true, phase := .idle } := by
  have hb : busy s = true := by rw [busy, hp]; rfl
  rw [← raise_of_busy hb, rxTimeout, hp]

/-- In a phase that is not reading the deadline has no effect (40_host_interface.md R134). -/
theorem rxTimeout_of_not_reads (h : s.phase ∉ [.enqRx, .ackRx, .respRx, .eotRx]) : rxTimeout s = s := by
  unfold rxTimeout
  cases hp : s.phase
  case enqRx | ackRx | respRx | eotRx => exact absurd (by rw [hp]; decide) h
  all_goals rfl

end

/-- Settles O17: the deadline in each group of phases, as a step. -/
theorem rxTimeoutRaisesByPhase : Obligations.RxTimeoutRaisesByPhase := by
  intro s es he
  rw [step_rxTimeout he]
  refine ⟨fun h => ?_, fun h => ?_, fun h => ?_⟩
  · rw [rxTimeout_of_reply (s := { s with events := es }) h]
  · rw [rxTimeout_of_respRx (s := { s with events := es }) h]
  · rw [rxTimeout_of_not_reads (s := { s with events := es }) h]

end Sys2Proof.Machine
end

section
/-! PROOFS of the statements about the handshake (41_handshake.md): when a byte is transferred, the enquiry frame, and
the handshake reply. -/

namespace Sys2Proof.Machine

/-! ## Acceptance -/

/-- Settles O28: the body of the accepted command. -/
theorem testConnectionStartsHandshake : Obligations.TestConnectionStartsHandshake :=
  ⟨rfl, fun _ hb => exec_command_of_idle rfl hb⟩

/-! ## The transfer of one byte -/

/-- What the link does with a byte, the byte's row of the table does too (log 3). -/
theorem transferGives_of_linkByte {b : Byte} {s t : State} (h : linkByte b s = .next t) : transferGives b s t :=
  ⟨h, fun _ hi => (exec_linkRow hi s).trans h⟩

/-- In a phase that sends, the offered byte is transferred by TX_ACC (40_host_interface.md R132). -/
theorem transferGives_txAccept {b : Byte} {s : State} (h : txByte s = some b) : transferGives b s (txAccept b s) :=
  transferGives_of_linkByte (by simp [linkByte, (txValid_of_txByte h).2, h])

/-- In a phase that reads, every byte is transferred by RX (40_host_interface.md R133). -/
theorem transferGives_of_rxByte {b : Byte} {s t : State} (hr : rxReady s = true) (h : rxByte b s = .next t) :
    transferGives b s t :=
  transferGives_of_linkByte (by rw [linkByte, if_pos hr, h])

/-! ## The enquiry frame -/

/-- In `ENQ_TX` the block offers the enquiry frame (30_encoding.md R85). -/
theorem txByte_of_enqTx {s : State} (hp : s.phase = .enqTx) :
    txByte s = [0x4E, 0x20 + s.cfg.clientId.setWidth 8, 0x05][s.idx.toNat]? := by
  rw [txByte, hp]
  exact (Vector.getElem?_toList (xs := enqFrame s.cfg)).symm

/-- TX_ACC in `ENQ_TX` (41_handshake.md R143). -/
theorem txAdvance_of_enqTx {s : State} (hp : s.phase = .enqTx) :
    txAdvance s = if s.idx.toNat < 2 then { s with idx := s.idx + 1 } else { s with idx := 0, phase := .enqRx } := by
  rw [txAdvance, hp]

/-- Settles O29: the byte of the frame is the one offered, and its TX_ACC advances IDX inside the frame or ends it. -/
theorem enquiryByteAccepted : Obligations.EnquiryByteAccepted := by
  intro s b hp hb
  have htransfer : transferGives b s (txAccept b s) := transferGives_txAccept ((txByte_of_enqTx hp).trans hb)
  rw [txAccept, txAdvance_of_enqTx hp] at htransfer
  split <;> rename_i hi
  · rwa [if_pos hi] at htransfer
  · rwa [if_neg hi] at htransfer

/-! ## The handshake reply -/

section
variable {s : State}

theorem rxByte_of_enqRx (b : Byte) (hp : s.phase = .enqRx) : rxByte b s = rxEnq b s := by
  rw [rxByte, hp]

/-- The first two reply bytes are only stored (41_handshake.md R144). -/
theorem rxByte_enqRx_of_lt_two (b : Byte) (hp : s.phase = .enqRx) (hi : s.idx.toNat < 2) :
    rxByte b s = .next { s with echo := s.echo.set s.idx.toNat b, idx := s.idx + 1 } := by
  simp [rxByte_of_enqRx b hp, rxEnq, hi, Nat.lt_succ_of_lt hi]

/-- The third reply byte is stored and completes the handshake (41_handshake.md R144). -/
theorem rxByte_enqRx_of_eq_two (b : Byte) (hp : s.phase = .enqRx) (hi : s.idx.toNat = 2) :
    rxByte b s = .next (handshakeComplete { s with echo := s.echo.set 2 b }) := by
  simp [rxByte_of_enqRx b hp, rxEnq, hi]

theorem handshakeComplete_of_mismatch (h : s.echo ≠ expFrame s.cfg) :
    handshakeComplete s = raise .handshakeRejected s := if_pos h

theorem handshakeComplete_of_testConnection (h : s.echo = expFrame s.cfg) (hk : s.opk = .testConnection) :
    handshakeComplete s = { s with phase := .link, done := true } := by
  simp [handshakeComplete, h, hk]

theorem handshakeComplete_of_readValue (h : s.echo = expFrame s.cfg) (hk : s.opk = .readValue) :
    handshakeComplete s = startHeader s := by
  simp [handshakeComplete, h, hk]

/-- An address error is found only after the enquiry exchange (45_read_transaction.md R221). -/
theorem startHeader_of_error {e : ErrCode} (h : encodeHeader 0x0 s = .error e) : startHeader s = raise e s := by
  rw [startHeader, h]

theorem startHeader_of_ok {hd : Vector Byte 17} (h : encodeHeader 0x0 s = .ok hd) :
    startHeader s = { s with hdr := hd, hdrValid := true, idx := 0, phase := .hdrTx } := by
  rw [startHeader, h]

end

theorem vector3_set_two_toList {α : Type} (v : Vector α 3) (b : α) : (v.set 2 b).toList = [v[0], v[1], b] := by
  obtain ⟨⟨l⟩, hl⟩ := v
  obtain ⟨x, y, z, rfl⟩ := List.length_eq_three.mp hl
  rfl

/-- The reply with its third byte b is the expected frame, byte by byte (30_encoding.md R86, 41_handshake.md R141). -/
theorem set_two_eq_expFrame_iff (echo : Vector Byte 3) (b : Byte) (p : Params) :
    echo.set 2 b = expFrame p ↔ [echo[0], echo[1], b] = [0x4E, 0x20 + p.clientId.setWidth 8, 0x06] := by
  rw [← Vector.toList_inj, vector3_set_two_toList]
  rfl

/-- Settles O30: the byte is read, and the third completes the handshake by the reply, the command and the encoder. -/
theorem handshakeReplyByte : Obligations.HandshakeReplyByte := by
  intro s b hp
  have hr : rxReady s = true := by rw [rxReady, hp]; rfl
  refine ⟨fun hi => transferGives_of_rxByte hr (rxByte_enqRx_of_lt_two b hp hi), fun hi => ?_⟩
  intro t matched
  have hb : busy t = true := by rw [show busy t = s.phase.busy from rfl, hp]; rfl
  have hmatch : t.echo = expFrame t.cfg ↔ matched := set_two_eq_expFrame_iff s.echo b s.cfg
  have completes {u : State} (hu : handshakeComplete t = u) : transferGives b s u :=
    transferGives_of_rxByte hr (by rw [rxByte_enqRx_of_eq_two b hp hi, hu])
  refine ⟨fun hm => completes ?mismatch, fun hm hk => completes ?testConnection, fun hm hk =>
    ⟨fun e he => completes ?addressError, fun hd hh => completes ?header⟩⟩
  case mismatch => rw [handshakeComplete_of_mismatch (mt hmatch.mp hm), raise_of_busy hb]
  case testConnection => exact handshakeComplete_of_testConnection (hmatch.mpr hm) hk
  case addressError =>
    have he' : encodeHeader 0x0 t = .error e := he
    rw [handshakeComplete_of_readValue (hmatch.mpr hm) hk, startHeader_of_error he', raise_of_busy hb]
  case header =>
    have hh' : encodeHeader 0x0 t = .ok hd := hh
    rw [handshakeComplete_of_readValue (hmatch.mpr hm) hk, startHeader_of_ok hh']

end Sys2Proof.Machine
end

section
/-! PROOFS of the statement about the header commands (42_header_encoder.md R170 to R172). -/

namespace Sys2Proof.Machine

/-! ## The two outcomes of HDR_BUILD -/

/-- The encoder's error is raised, with HDR kept and HDR_VALID cleared (42_header_encoder.md R172). -/
theorem hdrBuild_of_error {op : Nibble} {s : State} {e : ErrCode} (h : encodeHeader op s = .error e) :
    hdrBuild op s = raise e { s with hdrValid := false } := by
  rw [hdrBuild, h]

/-- The encoder's header goes into HDR and is valid (42_header_encoder.md R170, R171). -/
theorem hdrBuild_of_ok {op : Nibble} {s : State} {hd : Vector Byte 17} (h : encodeHeader op s = .ok hd) :
    hdrBuild op s = { s with hdr := hd, hdrValid := true, done := true } := by
  rw [hdrBuild, h]

/-- The acceptance of a command writes no register that the encoder reads (42_header_encoder.md R160). -/
theorem encodeHeader_accept (op : Nibble) (s : State) : encodeHeader op (accept s) = encodeHeader op s :=
  encodeHeader_congr op (accept_addrChar s) (accept_addrLen s) (accept_size s) (accept_cfg s)

/-! ## The header commands -/

section
variable {i : Instr} {op : Nibble} {s : State} (hi : isCommand i = true) (hbody : commandBody i = hdrBuild op)
  (hb : busy s = false)
include hi hbody hb

/-- A header command whose encoder fails; as a local command it leaves PHASE (60_exceptions.md R253). -/
theorem exec_hdrBuild_of_error {e : ErrCode} (he : encodeHeader op s = .error e) :
    exec i s = .next { s with hdrValid := false, err := e, done := true, hostErr := false } := by
  have hb' : busy { accept s with hdrValid := false } = false := hb
  rw [exec_command_of_idle hi hb, hbody, hdrBuild_of_error ((encodeHeader_accept op s).trans he), raise_of_idle hb']
  rfl

theorem exec_hdrBuild_of_ok {hd : Vector Byte 17} (hok : encodeHeader op s = .ok hd) :
    exec i s = .next { s with hdr := hd, hdrValid := true, err := .none, done := true, hostErr := false } := by
  rw [exec_command_of_idle hi hb, hbody, hdrBuild_of_ok ((encodeHeader_accept op s).trans hok)]
  rfl

end

/-- Settles O26: both commands are HDR_BUILD of their op, and the encoder's outcome decides. -/
theorem hdrBuildResult : Obligations.HdrBuildResult := by
  refine ⟨rfl, rfl, fun s hb i op hmem => ?_⟩
  obtain ⟨hi, hbody⟩ : isCommand i = true ∧ commandBody i = hdrBuild op := by
    simp only [List.mem_cons, List.not_mem_nil, or_false, Prod.mk.injEq] at hmem
    rcases hmem with ⟨rfl, rfl⟩ | ⟨rfl, rfl⟩ <;> exact ⟨rfl, rfl⟩
  exact ⟨fun _ he => exec_hdrBuild_of_error hi hbody hb he, fun _ hok => exec_hdrBuild_of_ok hi hbody hb hok⟩

end Sys2Proof.Machine
end

section
/-! PROOFS of the statements about the checksum generator (43_checksum.md): its two commands, and that every step but
theirs, a host read and a RESET neither reads nor writes CSUM. -/

namespace Sys2Proof.Machine

/-! ## The two commands -/

/-- Settles O19: the body of the accepted command. -/
theorem csumClearResult : Obligations.CsumClearResult :=
  ⟨rfl, fun _ hb => exec_command_of_idle rfl hb⟩

theorem foldWord_toNat (b : Byte) : (foldWord b).toNat = b.toNat * 256 + 2 :=
  Nat.mod_eq_of_lt (by have := b.isLt; omega)

/-- The operand of CSUM_FOLD is the upper byte of its word (30_encoding.md R93, 43_checksum.md R193). -/
theorem cmdOpnd_foldWord (b : Byte) : cmdOpnd (foldWord b) = b := by
  have hb := b.isLt
  apply BitVec.eq_of_toNat_eq
  rw [cmdOpnd, BitVec.extractLsb'_toNat, foldWord_toNat, Nat.shiftRight_eq_div_pow]
  omega

theorem decodeCmd_foldWord (b : Byte) : decodeCmd (foldWord b) = .ok (.csumFold b) := by
  have hrsv : cmdRsv (foldWord b) = 0 := by
    rw [cmdRsv_eq_zero_iff, foldWord_toNat]
    omega
  have hcode : (cmdCode (foldWord b)).toNat = 2 := by
    rw [cmdCode_toNat, foldWord_toNat]
    omega
  simp [decodeCmd, hrsv, hcode, cmdOpnd_foldWord]

/-- Settles O20: the fields of the word, and the body of the accepted command. -/
theorem csumFoldResult : Obligations.CsumFoldResult :=
  ⟨decodeCmd_foldWord, fun _ _ hb => exec_command_of_idle rfl hb⟩

/-! ## Operations that do not use CSUM -/

/-- The state with the accumulator c. -/
abbrev withCsum (c : Byte) (s : State) : State := { s with csum := c }

/-- f does the same whatever CSUM holds, and keeps it. -/
def CsumBlind (f : State → State) : Prop := ∀ c, Function.Commute f (withCsum c)

/-- f does the same, a stop included, whatever CSUM holds, and its next state keeps it. -/
def OutcomeCsumBlind (f : State → Host.Outcome State Fault Refusal) : Prop :=
  ∀ c, Function.Semiconj f (withCsum c) (mapNext (withCsum c))

theorem CsumBlind.comp {f g : State → State} (hf : CsumBlind f) (hg : CsumBlind g) : CsumBlind (fun s => f (g s)) :=
  fun c => (hf c).comp_left (hg c)

/-- An operation that always answers a next state. -/
theorem CsumBlind.next {f : State → State} (hf : CsumBlind f) : OutcomeCsumBlind (fun s => .next (f s)) :=
  fun c s => congrArg Host.Outcome.next (hf c s)

theorem csumBlind_id : CsumBlind id := fun _ _ => rfl
theorem csumBlind_refuseWrite : CsumBlind refuseWrite := fun _ _ => rfl
theorem csumBlind_accept : CsumBlind accept := fun _ _ => rfl
theorem csumBlind_startHandshake (k : LinkCommand) : CsumBlind (startHandshake k) := fun _ _ => rfl
theorem csumBlind_clearResponse : CsumBlind clearResponse := fun _ _ => rfl

theorem busy_withCsum (c : Byte) (s : State) : busy (withCsum c s) = busy s := rfl
theorem txValid_withCsum (c : Byte) (s : State) : txValid (withCsum c s) = txValid s := rfl
theorem rxReady_withCsum (c : Byte) (s : State) : rxReady (withCsum c s) = rxReady s := rfl
theorem txByte_withCsum (c : Byte) (s : State) : txByte (withCsum c s) = txByte s := rfl
theorem fetch_withCsum (c : Byte) (s : State) : fetch (withCsum c s) = fetch s := rfl

theorem encodeHeader_withCsum (op : Nibble) (c : Byte) (s : State) :
    encodeHeader op (withCsum c s) = encodeHeader op s := encodeHeader_congr op rfl rfl rfl rfl

theorem csumBlind_consume : CsumBlind consume := by
  intro c s
  unfold consume
  dsimp only
  split <;> rfl

/-! ## Command words -/

/-- The header's checksum is folded apart from CSUM (43_checksum.md R194). -/
theorem csumBlind_hdrBuild (op : Nibble) : CsumBlind (hdrBuild op) := by
  intro c s
  unfold hdrBuild
  rw [encodeHeader_withCsum]
  cases encodeHeader op s <;> rfl

/-- Of the commands only CSUM_CLEAR and CSUM_FOLD use CSUM. -/
theorem csumBlind_commandBody {i : Instr} (hclear : i ≠ .csumClear) (hfold : ∀ b, i ≠ .csumFold b) :
    CsumBlind (commandBody i) := by
  cases i
  case csumClear => exact absurd rfl hclear
  case csumFold b => exact absurd rfl (hfold b)
  case hdrBuildRd | hdrBuildWr => exact csumBlind_hdrBuild _
  case testConnection => exact csumBlind_startHandshake _
  case readValue => exact (csumBlind_startHandshake _).comp csumBlind_clearResponse
  all_goals exact csumBlind_id

theorem outcomeCsumBlind_command {body : State → State} (hbody : CsumBlind body) : OutcomeCsumBlind (command body) := by
  intro c s
  unfold command
  rw [busy_withCsum]
  split
  · rfl
  · exact (hbody.comp csumBlind_accept).next c s

theorem outcomeCsumBlind_runWord_cmd {v : Word} (hclear : decodeCmd v ≠ .ok .csumClear)
    (hfold : ∀ b, decodeCmd v ≠ .ok (.csumFold b)) : OutcomeCsumBlind (runWord (.cmd v)) := by
  cases hd : decodeCmd v with
  | error e =>
    have hrun : runWord (.cmd v) = fun s => .next (refuseWrite s) := by
      funext s
      simp [runWord, decode, hd, runUnlisted]
    rw [hrun]
    exact csumBlind_refuseWrite.next
  | ok i =>
    have hrun : runWord (.cmd v) = command (commandBody i) := by
      funext s
      rw [runWord_cmd_of_decodeCmd hd, exec_eq_command (decodeCmd_isCommand hd)]
    rw [hrun]
    exact outcomeCsumBlind_command
      (csumBlind_commandBody (fun hi => hclear (hi ▸ hd)) (fun b hi => hfold b (hi ▸ hd)))

/-! ## The link -/

theorem csumBlind_handshakeComplete : CsumBlind handshakeComplete := by
  intro c s
  unfold handshakeComplete startHeader
  rw [encodeHeader_withCsum]
  dsimp only
  split
  · rfl
  · cases s.opk with
    | testConnection => rfl
    | readValue => cases encodeHeader 0x0 s <;> rfl

theorem outcomeCsumBlind_rxEnq (b : Byte) : OutcomeCsumBlind (rxEnq b) := by
  intro c s
  unfold rxEnq
  dsimp only
  split
  · rename_i hlt
    split
    · rfl
    · exact csumBlind_handshakeComplete.next c { s with echo := s.echo.set s.idx.toNat b hlt }
  · rfl

theorem csumBlind_rxAck (b : Byte) : CsumBlind (rxAck b) := by
  intro c s
  unfold rxAck
  split <;> rfl

theorem csumBlind_respLast (b : Byte) : CsumBlind (respLast b) := by
  intro c s
  have hchecks : respChecks b (withCsum c s) = withCsum c (respChecks b s) := rfl
  unfold respLast
  rw [hchecks]
  dsimp only
  split <;> rfl

/-- The response is folded into RCSUM, never into CSUM (43_checksum.md R194). -/
theorem outcomeCsumBlind_rxResp (b : Byte) : OutcomeCsumBlind (rxResp b) := by
  intro c s
  unfold rxResp
  dsimp only
  split_ifs
  · rfl
  · rfl
  · rfl
  · exact (csumBlind_respLast b).next c s
  · rfl

theorem csumBlind_rxEot (b : Byte) : CsumBlind (rxEot b) := by
  intro c s
  unfold rxEot
  split <;> rfl

theorem outcomeCsumBlind_rxByte (b : Byte) : OutcomeCsumBlind (rxByte b) := by
  intro c s
  unfold rxByte
  dsimp only
  cases s.phase
  case enqRx => exact outcomeCsumBlind_rxEnq b c s
  case ackRx => exact (csumBlind_rxAck b).next c s
  case respRx => exact outcomeCsumBlind_rxResp b c s
  case eotRx => exact (csumBlind_rxEot b).next c s
  all_goals rfl

theorem csumBlind_txAccept (b : Byte) : CsumBlind (txAccept b) := by
  intro c s
  unfold txAccept txAdvance
  dsimp only
  cases s.phase
  case enqTx | hdrTx => dsimp only; split <;> rfl
  all_goals rfl

theorem outcomeCsumBlind_linkByte (b : Byte) : OutcomeCsumBlind (linkByte b) := by
  intro c s
  unfold linkByte
  rw [rxReady_withCsum, txByte_withCsum]
  split_ifs
  · exact outcomeCsumBlind_rxByte b c s
  · exact (csumBlind_txAccept b).next c s
  · rfl

/-- An instruction word other than CSUM_CLEAR and CSUM_FOLD does not use CSUM, whether it is in the table or not. -/
theorem outcomeCsumBlind_runWord {w : InstrWord} (hclear : decode w ≠ .ok .csumClear)
    (hfold : ∀ b, decode w ≠ .ok (.csumFold b)) : OutcomeCsumBlind (runWord w) := by
  cases w with
  | cmd v => exact outcomeCsumBlind_runWord_cmd hclear hfold
  | link b =>
    rw [funext (runWord_link b)]
    exact outcomeCsumBlind_linkByte b

/-! ## Events that bring no instruction word -/

theorem csumBlind_regWrite (i : Byte) (v : Word) : CsumBlind (regWrite i v) := by
  intro c s
  unfold regWrite writeAddrLen writeAddrChar
  rw [busy_withCsum]
  split
  · rfl
  · split
    case h_2 => split <;> rfl
    case h_4 => split_ifs <;> rfl
    all_goals rfl

theorem csumBlind_rxTimeout : CsumBlind rxTimeout := by
  intro c s
  unfold rxTimeout
  dsimp only
  cases s.phase <;> rfl

/-- Of the events only a host read shows CSUM, and only RESET writes it (10_state.md R22). -/
theorem outcomeCsumBlind_runEvent {e : Event} (hread : ∀ i, e ≠ .regRd i) (hreset : ∀ p, e ≠ .reset p) :
    OutcomeCsumBlind (runEvent e) := by
  cases e with
  | regRd i => exact absurd rfl (hread i)
  | regWr i v => exact (csumBlind_regWrite i v).next
  | txAcc =>
    intro c s
    unfold runEvent
    dsimp only
    rw [txValid_withCsum]
    split <;> rfl
  | rx => exact csumBlind_id.next
  | rxTimeout => exact csumBlind_rxTimeout.next
  | reset p => exact absurd rfl (hreset p)

/-! ## The step -/

/-- An event that brings an instruction word runs it. -/
theorem step_of_fetch {s : State} {w : InstrWord} (h : fetch s = some w) : step s = runWord w (consume s) := by
  unfold step runNext
  split
  · rename_i he; simp [fetch, he] at h
  · rw [h]

/-- An event that brings no instruction word has its own effect. -/
theorem step_of_fetch_none {s : State} {e : Event} {es : List Event} (he : s.events = e :: es)
    (h : fetch s = none) : step s = runEvent e (consume s) := by
  simp [step, runNext, he, h]

/-- Settles O22: the event is taken alike whatever CSUM holds, and then its word or the event itself is blind to CSUM. -/
theorem accumulatorIsSeparate : Obligations.AccumulatorIsSeparate := by
  intro s c hword hreset hread
  have hconsume : consume (withCsum c s) = withCsum c (consume s) := csumBlind_consume c s
  change step (withCsum c s) = mapNext (withCsum c) (step s)
  cases hf : fetch s with
  | some w =>
    obtain ⟨hclear, hfold⟩ := hword w hf
    rw [step_of_fetch hf, step_of_fetch ((fetch_withCsum c s).trans hf), hconsume]
    exact outcomeCsumBlind_runWord hclear hfold c (consume s)
  | none =>
    cases he : s.events with
    | nil =>
      rw [step_nil he, step_nil (s := withCsum c s) he]
      rfl
    | cons e es =>
      rw [step_of_fetch_none he hf, step_of_fetch_none (s := withCsum c s) he hf, hconsume]
      refine outcomeCsumBlind_runEvent (fun i hi => hread ⟨i, es, ?_⟩) (fun p hp => hreset ⟨p, es, ?_⟩) c (consume s)
      · rw [he, hi]
      · rw [he, hp]

end Sys2Proof.Machine
end

section
/-! PROOFS of the statements about the bytes of the response (44_response_parser.md R202 to R205, R208): the parser's
equation at each position, and strict rejection. -/

namespace Sys2Proof.Machine

/-! ## The response byte by its position -/

section
variable {s : State}

theorem busy_of_phase {p : Phase} (hp : s.phase = p) (hb : p.busy = true) : busy s = true := by
  rw [busy, hp, hb]

theorem rxReady_of_respRx (hp : s.phase = .respRx) : rxReady s = true := by
  rw [rxReady, hp]
  rfl

theorem rxByte_of_respRx (b : Byte) (hp : s.phase = .respRx) : rxByte b s = rxResp b s := by
  rw [rxByte, hp]

/-- The STX position (44_response_parser.md R202). -/
theorem rxResp_of_stx (b : Byte) (hi : s.idx.toNat = 0) : rxResp b s = .next { s with respStx := b, idx := 1 } :=
  if_pos hi

/-- A data position (44_response_parser.md R203). -/
theorem rxResp_of_data (b : Byte) (h1 : 1 ≤ s.idx.toNat) (hi : s.idx.toNat ≤ s.size.toNat) :
    rxResp b s = .next (respData b s) := by
  rw [rxResp, if_neg (by omega), if_pos hi]

/-- The ETX position (44_response_parser.md R204). -/
theorem rxResp_of_etx (b : Byte) (hi : s.idx.toNat = s.size.toNat + 1) : rxResp b s = .next (respEtxByte b s) := by
  rw [rxResp, if_neg (by omega), if_neg (by omega), if_pos hi]

/-- The checksum position (44_response_parser.md R205). -/
theorem rxResp_of_last (b : Byte) (hi : s.idx.toNat = s.size.toNat + 2) : rxResp b s = .next (respLast b s) := by
  rw [rxResp, if_neg (by omega), if_neg (by omega), if_neg (by omega), if_pos hi]

/-- Past the checksum position no rule gives a byte an effect (log 8). -/
theorem rxResp_of_outside (b : Byte) (hi : s.size.toNat + 2 < s.idx.toNat) :
    rxResp b s = .fault .idxOutsideFrame := by
  rw [rxResp, if_neg (by omega), if_neg (by omega), if_neg (by omega), if_neg (by omega)]

/-- Every byte that has an effect in `RESP_RX` is transferred by RX. -/
theorem transferGives_of_rxResp {b : Byte} {t : State} (hp : s.phase = .respRx) (h : rxResp b s = .next t) :
    transferGives b s t :=
  transferGives_of_rxByte (rxReady_of_respRx hp) ((rxByte_of_respRx b hp).trans h)

/-- Strict mode rejects a frame with a wrong STX, ETX or checksum (44_response_parser.md R208). -/
theorem respLast_of_bad {b : Byte} (hstrict : s.cfg.strictResponse = true)
    (hbad : s.respStx ≠ codeStx ∨ s.respEtx ≠ codeEtx ∨ s.rcsum ≠ b) :
    respLast b s = raise .badResponseFrame (respChecks b s) := by
  rcases respLast_cases b s with ⟨_, _, h⟩ | ⟨hlenient | ⟨hstx, hetx, hck⟩, _⟩
  · exact h
  · exact absurd (hstrict.symm.trans hlenient) (by decide)
  · simp [hstx, hetx, hck] at hbad

/-- Lenient mode goes on to the acknowledge with every frame, strict mode with a good one (44_response_parser.md R205,
R207). -/
theorem respLast_of_accepted {b : Byte}
    (h : s.cfg.strictResponse = false ∨ ¬ (s.respStx ≠ codeStx ∨ s.respEtx ≠ codeEtx ∨ s.rcsum ≠ b)) :
    respLast b s = { respChecks b s with idx := 0, phase := .ackTx } := by
  rcases respLast_cases b s with ⟨hstrict, hbad, _⟩ | ⟨_, hr⟩
  · rcases h with hlenient | hgood
    · exact absurd (hstrict.symm.trans hlenient) (by decide)
    · exact absurd hbad hgood
  · exact hr

end

/-- Settles O32: each position's equation of the parser, as the transfer of the byte. -/
theorem responseByteBeforeLast : Obligations.ResponseByteBeforeLast := by
  intro s b hp
  refine ⟨fun hi => transferGives_of_rxResp hp (rxResp_of_stx b hi), fun h1 hi => ?data,
    fun hi => transferGives_of_rxResp hp (rxResp_of_etx b hi)⟩
  case data =>
    rw [BitVec.ofNat_toNat]
    exact transferGives_of_rxResp hp (rxResp_of_data b h1 hi)

/-- Settles O33: the last byte's transfer, rejected or accepted. -/
theorem responseLastByte : Obligations.ResponseLastByte := by
  intro s b hp hi t bad
  have hlast : transferGives b s (respLast b s) := transferGives_of_rxResp hp (rxResp_of_last b hi)
  constructor
  · intro hstrict hbad
    have hb : busy (respChecks b s) = true := busy_of_phase hp rfl
    rwa [respLast_of_bad hstrict hbad, raise_of_busy hb] at hlast
  · intro hok
    rwa [respLast_of_accepted hok] at hlast

end Sys2Proof.Machine
end

section
/-! PROOFS that in lenient mode the STX, ETX and checksum bytes are only reported (44_response_parser.md R207): of the
steps only a host read shows the reports, and only strict mode rejects a frame by them. -/

namespace Sys2Proof.Machine

/-! ## The frame bytes in lenient mode -/

/-- What a frame byte of the response does beside the reports, where the frame is not rejected: IDX advances, and the
last byte leads to the acknowledge (44_response_parser.md R202, R204, R205). -/
def frameByteTaken (s : State) : State :=
  if s.idx.toNat = s.size.toNat + 2 then { s with idx := 0, phase := .ackTx } else { s with idx := s.idx + 1 }

/-- In lenient mode the STX, ETX or checksum byte does the same, but for the reports, whatever its value and whatever
was reported before (44_response_parser.md R207). -/
theorem linkByte_frameByte (b : Byte) {s : State} (hlenient : s.cfg.strictResponse = false) (hp : s.phase = .respRx)
    (hpos : s.idx.toNat = 0 ∨ s.idx.toNat = s.size.toNat + 1 ∨ s.idx.toNat = s.size.toNat + 2) :
    ∃ s', linkByte b s = .next s' ∧ withoutReports s' = frameByteTaken (withoutReports s) := by
  have hlink {u : State} (h : rxResp b s = .next u) : linkByte b s = .next u := (transferGives_of_rxResp hp h).1
  have hgoes (hne : s.idx.toNat ≠ s.size.toNat + 2) :
      frameByteTaken (withoutReports s) = { withoutReports s with idx := s.idx + 1 } := if_neg hne
  rcases hpos with hi | hi | hi
  · have hone : s.idx + 1 = 1 := by rw [BitVec.eq_of_toNat_eq (y := 0) hi]; rfl
    refine ⟨_, hlink (rxResp_of_stx b hi), ?_⟩
    rw [hgoes (by omega), hone]
    rfl
  · refine ⟨_, hlink (rxResp_of_etx b hi), ?_⟩
    rw [hgoes (by omega)]
    rfl
  · refine ⟨_, hlink (rxResp_of_last b hi), ?_⟩
    have hends : frameByteTaken (withoutReports s) = { withoutReports s with idx := 0, phase := .ackTx } := if_pos hi
    rw [respLast_of_accepted (.inl hlenient), hends]
    rfl

/-! ## Operations that do not use the reports -/

/-- But for the reports themselves, f does the same whatever they hold. -/
def ReportBlind (f : State → State) : Prop := ∀ s, withoutReports (f (withoutReports s)) = withoutReports (f s)

/-- But for the reports themselves, f has the same outcome at s, a stop included, whatever they hold. -/
def OutcomeReportBlind (f : State → Host.Outcome State Fault Refusal) (s : State) : Prop :=
  mapNext withoutReports (f (withoutReports s)) = mapNext withoutReports (f s)

theorem ReportBlind.comp {f g : State → State} (hf : ReportBlind f) (hg : ReportBlind g) :
    ReportBlind (fun s => f (g s)) := fun s =>
  calc withoutReports (f (g (withoutReports s)))
    _ = withoutReports (f (withoutReports (g (withoutReports s)))) := (hf _).symm
    _ = withoutReports (f (withoutReports (g s))) := by rw [hg s]
    _ = withoutReports (f (g s)) := hf _

/-- An operation that always answers a next state. -/
theorem ReportBlind.next {f : State → State} (hf : ReportBlind f) (s : State) :
    OutcomeReportBlind (fun u => .next (f u)) s := congrArg Host.Outcome.next (hf s)

theorem reportBlind_id : ReportBlind id := fun _ => rfl
theorem reportBlind_refuseWrite : ReportBlind refuseWrite := fun _ => rfl
theorem reportBlind_accept : ReportBlind accept := fun _ => rfl
theorem reportBlind_startHandshake (k : LinkCommand) : ReportBlind (startHandshake k) := fun _ => rfl
theorem reportBlind_clearResponse : ReportBlind clearResponse := fun _ => rfl
theorem reportBlind_resetWith (c : Params) : ReportBlind (resetWith c) := fun _ => rfl

section
variable (s : State)

theorem withoutReports_phase : (withoutReports s).phase = s.phase := rfl
theorem withoutReports_idx : (withoutReports s).idx = s.idx := rfl
theorem withoutReports_cfg : (withoutReports s).cfg = s.cfg := rfl
theorem withoutReports_opk : (withoutReports s).opk = s.opk := rfl
theorem withoutReports_echo : (withoutReports s).echo = s.echo := rfl

end

theorem busy_withoutReports (s : State) : busy (withoutReports s) = busy s := rfl
theorem txValid_withoutReports (s : State) : txValid (withoutReports s) = txValid s := rfl

theorem encodeHeader_withoutReports (op : Nibble) (s : State) :
    encodeHeader op (withoutReports s) = encodeHeader op s := encodeHeader_congr op rfl rfl rfl rfl

theorem reportBlind_hdrBuild (op : Nibble) : ReportBlind (hdrBuild op) := by
  intro s
  unfold hdrBuild
  rw [encodeHeader_withoutReports]
  cases encodeHeader op s <;> rfl

/-- No command reads the reports. -/
theorem reportBlind_commandBody (i : Instr) : ReportBlind (commandBody i) := by
  cases i
  case csumClear | csumFold => exact fun _ => rfl
  case hdrBuildRd | hdrBuildWr => exact reportBlind_hdrBuild _
  case testConnection => exact reportBlind_startHandshake _
  case readValue => exact (reportBlind_startHandshake _).comp reportBlind_clearResponse
  all_goals exact reportBlind_id

/-- A write to CMD, decoded or not. -/
theorem outcomeReportBlind_runWord_cmd (v : Word) (s : State) : OutcomeReportBlind (runWord (.cmd v)) s := by
  cases hd : decodeCmd v with
  | error e =>
    have hrun : runWord (.cmd v) = fun u => .next (refuseWrite u) := by
      funext u
      exact runWord_cmd_of_rejected (.inr ((decodeCmd_isError_iff v).mp ⟨e, hd⟩))
    rw [hrun]
    exact reportBlind_refuseWrite.next s
  | ok i =>
    have hrun : runWord (.cmd v) = command (commandBody i) := by
      funext u
      rw [runWord_cmd_of_decodeCmd hd, exec_eq_command (decodeCmd_isCommand hd)]
    rw [hrun]
    unfold OutcomeReportBlind command
    rw [busy_withoutReports]
    split
    · exact reportBlind_refuseWrite.next s
    · exact ((reportBlind_commandBody i).comp reportBlind_accept).next s

theorem reportBlind_regWrite (i : Byte) (v : Word) : ReportBlind (regWrite i v) := by
  intro s
  unfold regWrite writeAddrLen writeAddrChar
  rw [busy_withoutReports]
  split
  · rfl
  · split
    case h_2 => split <;> rfl
    case h_4 => split_ifs <;> rfl
    all_goals rfl

theorem reportBlind_rxTimeout : ReportBlind rxTimeout := by
  intro s
  unfold rxTimeout
  rw [withoutReports_phase]
  cases s.phase <;> rfl

theorem outcomeReportBlind_resetEvent (p : RawParams) (s : State) : OutcomeReportBlind (resetEvent p) s := by
  unfold OutcomeReportBlind resetEvent
  cases sampleParams p with
  | none => rfl
  | some c => exact (reportBlind_resetWith c).next s

/-! ## The link -/

theorem reportBlind_txAccept (b : Byte) : ReportBlind (txAccept b) := by
  intro s
  unfold txAccept txAdvance
  rw [withoutReports_phase, withoutReports_idx]
  cases s.phase
  case enqTx | hdrTx => dsimp only; split <;> rfl
  all_goals rfl

theorem reportBlind_handshakeComplete : ReportBlind handshakeComplete := by
  intro s
  unfold handshakeComplete startHeader
  rw [encodeHeader_withoutReports, withoutReports_echo, withoutReports_cfg, withoutReports_opk]
  split
  · rfl
  · cases s.opk with
    | testConnection => rfl
    | readValue => cases encodeHeader 0x0 s <;> rfl

theorem outcomeReportBlind_rxByte_enqRx (b : Byte) {s : State} (hp : s.phase = .enqRx) :
    OutcomeReportBlind (rxByte b) s := by
  unfold OutcomeReportBlind
  rcases Nat.lt_trichotomy s.idx.toNat 2 with hi | hi | hi
  · rw [rxByte_enqRx_of_lt_two b hp hi, rxByte_enqRx_of_lt_two (s := withoutReports s) b hp hi]
    rfl
  · rw [rxByte_enqRx_of_eq_two b hp hi, rxByte_enqRx_of_eq_two (s := withoutReports s) b hp hi]
    exact reportBlind_handshakeComplete.next { s with echo := s.echo.set 2 b }
  · have hout {u : State} (hu : 2 < u.idx.toNat) : rxEnq b u = .fault .idxOutsideFrame := dif_neg (by omega)
    rw [rxByte_of_enqRx b hp, rxByte_of_enqRx (s := withoutReports s) b hp, hout hi, hout (u := withoutReports s) hi]

theorem reportBlind_rxAck (b : Byte) : ReportBlind (rxAck b) := by
  intro s
  unfold rxAck
  split <;> rfl

theorem reportBlind_rxEot (b : Byte) : ReportBlind (rxEot b) := by
  intro s
  unfold rxEot
  split <;> rfl

/-- Only strict mode reads the reports, to reject a frame (44_response_parser.md R207, R208). -/
theorem outcomeReportBlind_rxResp (b : Byte) {s : State} (hlenient : s.cfg.strictResponse = false) :
    OutcomeReportBlind (rxResp b) s := by
  unfold OutcomeReportBlind
  rcases rxResp_cases b s with ⟨hi, h⟩ | ⟨h1, hi, h⟩ | ⟨hi, h⟩ | ⟨hi, h⟩ | ⟨hi, h⟩ <;> rw [h]
  · rw [rxResp_of_stx (s := withoutReports s) b hi]
    rfl
  · rw [rxResp_of_data (s := withoutReports s) b h1 hi]
    rfl
  · rw [rxResp_of_etx (s := withoutReports s) b hi]
    rfl
  · rw [rxResp_of_last (s := withoutReports s) b hi, respLast_of_accepted (.inl hlenient),
      respLast_of_accepted (s := withoutReports s) (.inl hlenient)]
    rfl
  · rw [rxResp_of_outside (s := withoutReports s) b hi]

theorem outcomeReportBlind_rxByte (b : Byte) {s : State} (hlenient : s.cfg.strictResponse = false) :
    OutcomeReportBlind (rxByte b) s := by
  by_cases henq : s.phase = .enqRx
  · exact outcomeReportBlind_rxByte_enqRx b henq
  unfold OutcomeReportBlind rxByte
  rw [withoutReports_phase]
  cases hp : s.phase
  case enqRx => exact absurd hp henq
  case ackRx => exact (reportBlind_rxAck b).next s
  case respRx => exact outcomeReportBlind_rxResp b hlenient
  case eotRx => exact (reportBlind_rxEot b).next s
  all_goals rfl

/-! ## The step -/

/-- In lenient mode a step other than a host read has the same outcome, but for the reports, whatever they hold. -/
theorem outcomeReportBlind_step {s : State} (hlenient : s.cfg.strictResponse = false) (hread : ¬ nextIsRead s) :
    OutcomeReportBlind step s := by
  unfold OutcomeReportBlind
  cases he : s.events with
  | nil =>
    rw [step_nil he, step_nil (s := withoutReports s) he]
    rfl
  | cons e es =>
    cases e with
    | regRd i => exact absurd ⟨i, es, he⟩ hread
    | regWr i v =>
      by_cases hi : i = 0x00
      · subst hi
        rw [step_cmd he, step_cmd (s := withoutReports s) he]
        exact outcomeReportBlind_runWord_cmd v { s with events := es }
      · rw [step_regWr he hi, step_regWr (s := withoutReports s) he hi]
        exact (reportBlind_regWrite i v).next { s with events := es }
    | txAcc =>
      cases hb : txByte s with
      | some b =>
        rw [step_txAcc he hb, step_txAcc (s := withoutReports s) he hb]
        exact (reportBlind_txAccept b).next { s with events := es }
      | none =>
        rw [step_txAcc_none he hb, step_txAcc_none (s := withoutReports s) he hb, txValid_withoutReports]
        split <;> rfl
    | rx =>
      by_cases hr : rxReady s = false ∨ s.rxStream = []
      · rw [step_rx_idle he hr, step_rx_idle (s := withoutReports s) he hr]
        rfl
      · obtain ⟨hready, hne⟩ := not_or.mp hr
        have hready : rxReady s = true := by simpa using hready
        obtain ⟨b, bs, hb⟩ := List.exists_cons_of_ne_nil hne
        rw [step_rx he hready hb, step_rx (s := withoutReports s) he hready hb]
        exact outcomeReportBlind_rxByte b (s := { s with events := es, rxStream := bs }) hlenient
    | rxTimeout =>
      rw [step_rxTimeout he, step_rxTimeout (s := withoutReports s) he]
      exact reportBlind_rxTimeout.next { s with events := es }
    | reset p =>
      rw [step_reset he, step_reset (s := withoutReports s) he]
      exact outcomeReportBlind_resetEvent p { s with events := es }

/-- Settles O34: both states take a frame byte, and any step but a host read, as their common state without the reports
does. -/
theorem lenientFrameBytesOnlyReported : Obligations.LenientFrameBytesOnlyReported := by
  constructor
  · intro s t b c hlenient hst hp hpos
    have hcfg : t.cfg = s.cfg := (congrArg State.cfg hst.symm :)
    have hphase : t.phase = s.phase := (congrArg State.phase hst.symm :)
    have hidx : t.idx = s.idx := (congrArg State.idx hst.symm :)
    have hsize : t.size = s.size := (congrArg State.size hst.symm :)
    obtain ⟨s', hs, hs'⟩ := linkByte_frameByte b hlenient hp hpos
    obtain ⟨t', ht, ht'⟩ := linkByte_frameByte c (s := t) (by rw [hcfg, hlenient]) (hphase.trans hp)
      (by rwa [hidx, hsize])
    exact ⟨s', t', hs, ht, by rw [hs', ht', hst]⟩
  · intro s t hlenient hst hread
    have hcfg : t.cfg = s.cfg := (congrArg State.cfg hst.symm :)
    have hevents : t.events = s.events := (congrArg State.events hst.symm :)
    have hread' : ¬ nextIsRead t := by rwa [nextIsRead, hevents]
    calc mapNext withoutReports (step s)
      _ = mapNext withoutReports (step (withoutReports s)) := (outcomeReportBlind_step hlenient hread).symm
      _ = mapNext withoutReports (step (withoutReports t)) := by rw [hst]
      _ = mapNext withoutReports (step t) := outcomeReportBlind_step (by rw [hcfg, hlenient]) hread'

end Sys2Proof.Machine
end

section
/-! PROOFS that in RESP_RX RCSUM is the fold of the span received so far (44_response_parser.md R201): a byte of the
span extends both, and every other step keeps them, starts the response, or ends outside RESP_RX. -/

namespace Sys2Proof.Machine

/-! ## RCSUM and the span received so far -/

/-- The fold of a sequence that grows by one byte (43_checksum.md R190). -/
theorem fold_append_singleton (bs : List Byte) (b : Byte) : fold (bs ++ [b]) = fold bs ^^^ b := by
  simp [fold, List.foldl_append]

section
variable {s : State}

/-- Up to the ETX position the span holds data bytes only (44_response_parser.md R201). -/
theorem spanReceived_of_idx_le (h : s.idx.toNat ≤ s.size.toNat + 1) :
    spanReceived s = Memory.prefixBytes s.payload s.plLen.toNat := by
  simp [spanReceived, Nat.not_lt.mpr h]

/-- After the ETX position the span ends with the ETX byte, if it covers it (44_response_parser.md R201). -/
theorem spanReceived_of_lt_idx (h : s.size.toNat + 1 < s.idx.toNat) :
    spanReceived s = Memory.prefixBytes s.payload s.plLen.toNat ++
      if s.cfg.respCsumSpan = .dataEtx then [s.respEtx] else [] := by
  simp [spanReceived, h]

theorem idx_succ_toNat (h : s.idx.toNat ≤ s.size.toNat + 1) : (s.idx + 1).toNat = s.idx.toNat + 1 := by
  have := s.size.isLt
  bv_omega

/-- A data byte joins the span at its end (44_response_parser.md R203). -/
theorem spanReceived_respData (b : Byte) (h1 : 1 ≤ s.idx.toNat) (hi : s.idx.toNat ≤ s.size.toNat)
    (hlen : s.plLen.toNat = s.idx.toNat - 1) : spanReceived (respData b s) = spanReceived s ++ [b] := by
  have hnew : (respData b s).plLen.toNat = s.plLen.toNat + 1 := by
    have := s.size.isLt
    rw [respData_plLen, BitVec.toNat_setWidth]
    omega
  have hidx : (respData b s).idx.toNat ≤ (respData b s).size.toNat + 1 := by
    rw [respData_idx, respData_size, idx_succ_toNat (by omega)]
    omega
  rw [spanReceived_of_idx_le hidx, spanReceived_of_idx_le (by omega), hnew, respData_payload, ← hlen,
    Memory.prefixBytes_write]

/-- The ETX byte joins the span, if the span covers it (44_response_parser.md R204). -/
theorem spanReceived_respEtxByte (b : Byte) (hi : s.idx.toNat = s.size.toNat + 1) :
    spanReceived (respEtxByte b s) = spanReceived s ++ if s.cfg.respCsumSpan = .dataEtx then [b] else [] := by
  have hidx : (respEtxByte b s).size.toNat + 1 < (respEtxByte b s).idx.toNat := by
    rw [respEtxByte_idx, respEtxByte_size, idx_succ_toNat (by omega)]
    omega
  rw [spanReceived_of_lt_idx hidx, spanReceived_of_idx_le (by omega), respEtxByte_payload, respEtxByte_plLen,
    respEtxByte_cfg, respEtxByte_respEtx]

/-! ## What each operation does to the fold -/

/-- Outside `RESP_RX` nothing is said about RCSUM. -/
theorem rcsumIsFold_of_phase_ne (h : s.phase ≠ .respRx) : RcsumIsFold s := fun hp => absurd hp h

/-- The abort of a link command ends in `IDLE` (60_exceptions.md R253). -/
theorem raise_phase_ne_respRx {e : ErrCode} (hb : busy s = true) : (raise e s).phase ≠ .respRx := by
  rw [raise_of_busy hb]
  simp

/-- A response starts with nothing received and RCSUM cleared (44_response_parser.md R200). -/
theorem rcsumIsFold_of_start (hidx : s.idx = 0) (hlen : s.plLen = 0) (hrcsum : s.rcsum = 0x00) : RcsumIsFold s := by
  intro _
  rw [spanReceived_of_idx_le (by simp [hidx]), hlen, hrcsum]
  rfl

theorem rcsumIsFold_rxAck (b : Byte) (hlen : s.plLen = 0) (hrcsum : s.rcsum = 0x00) (hp : s.phase = .ackRx) :
    RcsumIsFold (rxAck b s) := by
  have hb : busy s = true := busy_of_phase hp rfl
  unfold rxAck
  split
  · exact rcsumIsFold_of_start rfl hlen hrcsum
  · exact rcsumIsFold_of_phase_ne (raise_phase_ne_respRx hb)

theorem rcsumIsFold_respData (b : Byte) (hf : RcsumIsFold s) (h1 : 1 ≤ s.idx.toNat) (hi : s.idx.toNat ≤ s.size.toNat)
    (hlen : s.plLen.toNat = s.idx.toNat - 1) : RcsumIsFold (respData b s) := by
  intro hp
  rw [respData_rcsum, spanReceived_respData b h1 hi hlen, fold_append_singleton, hf hp]

theorem rcsumIsFold_respEtxByte (b : Byte) (hf : RcsumIsFold s) (hi : s.idx.toNat = s.size.toNat + 1) :
    RcsumIsFold (respEtxByte b s) := by
  intro hp
  rw [respEtxByte_rcsum, spanReceived_respEtxByte b hi, hf hp]
  split
  · rw [fold_append_singleton]
  · rw [List.append_nil]

/-- The checksum byte ends `RESP_RX` (44_response_parser.md R205). -/
theorem respLast_phase_ne_respRx (b : Byte) (hp : s.phase = .respRx) : (respLast b s).phase ≠ .respRx := by
  have hb : busy (respChecks b s) = true := busy_of_phase hp rfl
  rcases respLast_cases b s with ⟨_, _, h⟩ | ⟨_, h⟩ <;> rw [h]
  · exact raise_phase_ne_respRx hb
  · simp

theorem handshakeComplete_phase_ne_respRx (hb : busy s = true) : (handshakeComplete s).phase ≠ .respRx := by
  rcases handshakeComplete_cases s with ⟨_, h⟩ | ⟨_, _, h⟩ | ⟨_, _, ⟨e, _, h⟩ | ⟨hd, _, h⟩⟩ <;> rw [h]
  · exact raise_phase_ne_respRx hb
  · simp
  · exact raise_phase_ne_respRx hb
  · simp

theorem rxEot_phase_ne_respRx (b : Byte) (hp : s.phase = .eotRx) : (rxEot b s).phase ≠ .respRx := by
  have hb : busy s = true := busy_of_phase hp rfl
  unfold rxEot
  split
  · simp
  · exact raise_phase_ne_respRx hb

/-- Sending a byte never leads into `RESP_RX`. -/
theorem txAccept_phase_ne_respRx (b : Byte) (hv : txValid s = true) : (txAccept b s).phase ≠ .respRx := by
  show (txAdvance s).phase ≠ .respRx
  rw [txValid] at hv
  unfold txAdvance
  cases hp : s.phase <;> rw [hp] at hv
  case enqTx | hdrTx => dsimp only; split <;> simp
  case ackTx | eotTx => simp
  all_goals cases hv

/-- In `RESP_RX` the invariant puts each data byte at the index PL_LEN (44_response_parser.md R203). -/
theorem plLen_of_respRx (h : payloadProgress s) (hp : s.phase = .respRx) :
    s.plLen.toNat = min (s.idx.toNat - 1) s.size.toNat := by
  rwa [payloadProgress, hp] at h

/-- Before the response the invariant has PL_LEN and RCSUM cleared (44_response_parser.md R200). -/
theorem cleared_of_ackRx (h : payloadProgress s) (hc : reportsCleared s) (hp : s.phase = .ackRx) :
    s.plLen = 0 ∧ s.rcsum = 0x00 := by
  obtain ⟨_, _, _, hrcsum, _⟩ := hc (.inr (.inl hp))
  rw [payloadProgress, hp] at h
  exact ⟨h, hrcsum⟩

/-- Every byte received keeps the fold, given what the invariant says of PL_LEN and of the reports. -/
theorem rcsumIsFold_of_rxByte {b : Byte} {t : State} (hprogress : payloadProgress s) (hcleared : reportsCleared s)
    (hf : RcsumIsFold s) (h : rxByte b s = .next t) : RcsumIsFold t := by
  rcases rxByte_next_cases h with ⟨_, rfl⟩ | ⟨hp, hlt, ⟨_, rfl⟩ | ⟨_, rfl⟩⟩ | ⟨hp, rfl⟩ |
    ⟨hp, ⟨hi, rfl⟩ | ⟨h1, hi, rfl⟩ | ⟨hi, rfl⟩ | ⟨_, rfl⟩⟩ | ⟨hp, rfl⟩
  · exact hf
  · exact rcsumIsFold_of_phase_ne (by simp [hp])
  · exact rcsumIsFold_of_phase_ne (handshakeComplete_phase_ne_respRx (busy_of_phase hp rfl))
  · obtain ⟨hlen, hrcsum⟩ := cleared_of_ackRx hprogress hcleared hp
    exact rcsumIsFold_rxAck b hlen hrcsum hp
  · intro _
    show s.rcsum = _
    rw [hf hp, spanReceived_of_idx_le (by omega), spanReceived_of_idx_le (by simp)]
  · have hlen := plLen_of_respRx hprogress hp
    exact rcsumIsFold_respData b hf h1 hi (by omega)
  · exact rcsumIsFold_respEtxByte b hf hi
  · exact rcsumIsFold_of_phase_ne (respLast_phase_ne_respRx b hp)
  · exact rcsumIsFold_of_phase_ne (rxEot_phase_ne_respRx b hp)

/-- A command leaves PHASE or starts the handshake, so an accepted one never leads into `RESP_RX`. -/
theorem commandBody_phase_ne_respRx (i : Instr) (hb : busy s = false) : (commandBody i s).phase ≠ .respRx := by
  have hp : s.phase ≠ .respRx := by
    intro hp
    exact absurd ((busy_of_phase hp rfl).symm.trans hb) (by decide)
  have hbuild (op : Nibble) : (hdrBuild op s).phase ≠ .respRx := by
    have hb' : busy { s with hdrValid := false } = false := hb
    rcases hdrBuild_cases op s with ⟨e, _, h⟩ | ⟨hd, _, h⟩ <;> rw [h]
    · rwa [raise_of_idle hb']
    · exact hp
  cases i
  case hdrBuildRd | hdrBuildWr => exact hbuild _
  case testConnection | readValue => simp [commandBody, startHandshake]
  all_goals exact hp

theorem rcsumIsFold_of_exec_command {i : Instr} {t : State} (hi : isCommand i = true) (hf : RcsumIsFold s)
    (h : exec i s = .next t) : RcsumIsFold t := by
  rw [exec_eq_command hi] at h
  rcases command_cases h with ⟨_, ht⟩ | ⟨hb, ht⟩ <;> cases ht
  · exact hf
  · exact rcsumIsFold_of_phase_ne (commandBody_phase_ne_respRx i hb)

theorem regWrite_phase (i : Byte) (v : Word) : (regWrite i v s).phase = s.phase := by
  rcases regWrite_cases i v s with h | ⟨_, ⟨_, h⟩ | ⟨_, _, h⟩ | ⟨_, h⟩ | ⟨_, _, _, h⟩⟩ <;> rw [h]
  rfl

/-- A host write to SIZE, which would move the ETX position, is ignored while the response is read
(44_response_parser.md R200). -/
theorem rcsumIsFold_regWrite (i : Byte) (v : Word) (hf : RcsumIsFold s) : RcsumIsFold (regWrite i v s) := by
  by_cases hp : s.phase = .respRx
  · rw [regWrite_of_busy i v (busy_of_phase hp rfl)]
    exact hf
  · exact rcsumIsFold_of_phase_ne (by rwa [regWrite_phase])

theorem rcsumIsFold_rxTimeout (hf : RcsumIsFold s) : RcsumIsFold (rxTimeout s) := by
  rcases rxTimeout_cases s with h | ⟨e, _, _, h⟩ <;> rw [h]
  · exact hf
  · exact rcsumIsFold_of_phase_ne (by simp)

end

/-- Settles O35: a byte received extends the span and RCSUM alike, and every other step keeps both, starts the
response with both empty, or ends outside `RESP_RX`. -/
theorem stepKeepsRcsumFold : Obligations.StepKeepsRcsumFold := by
  intro s t hs hf h
  have hfe (es : List Event) : RcsumIsFold { s with events := es } := hf
  rcases step_next_cases h with ⟨_, rfl⟩ | ⟨i, v, es, _, rfl⟩ | ⟨v, e, es, _, _, rfl⟩ |
    ⟨v, i, es, _, _, hi, hx⟩ | ⟨i, v, es, _, _, rfl⟩ | ⟨b, es, _, hb, rfl⟩ | ⟨es, _, _, _, rfl⟩ |
    ⟨b, bs, es, _, _, _, hx⟩ | ⟨es, _, _, rfl⟩ | ⟨es, _, rfl⟩ | ⟨p, c, es, _, _, rfl⟩
  · exact hf
  · exact hf
  · exact hf
  · exact rcsumIsFold_of_exec_command hi (hfe es) hx
  · exact rcsumIsFold_regWrite i v (hfe es)
  · exact rcsumIsFold_of_phase_ne (txAccept_phase_ne_respRx b (txValid_of_txByte hb).1)
  · exact hf
  · exact rcsumIsFold_of_rxByte (s := { s with events := es, rxStream := bs }) hs.progress hs.cleared hf hx
  · exact hf
  · exact rcsumIsFold_rxTimeout (hfe es)
  · exact rcsumIsFold_of_phase_ne (by simp [State.reset])

end Sys2Proof.Machine
end

section
/-! PROOFS of the statements about one event of the read transaction (45_read_transaction.md): the acceptance of
READ_VALUE, the bytes the block sends, and the one-byte replies it reads. -/

namespace Sys2Proof.Machine

/-! ## Acceptance -/

/-- Settles O36: the body of the accepted command. -/
theorem readValueStartsHandshake : Obligations.ReadValueStartsHandshake :=
  ⟨rfl, fun _ hb => exec_command_of_idle rfl hb⟩

/-- Settles O43: the accepted state is built from the elements on which the two states agree. -/
theorem readValueForgetsEarlierCommand : Obligations.ReadValueForgetsEarlierCommand := by
  obtain ⟨_, haccepted⟩ := readValueStartsHandshake
  intro s t hs ht hcsum hsize haddrLen haddrChar hplPtr hhdr hpayload hcfg htx hrx hrdata hevents
  rw [haccepted s hs, haccepted t ht, hcsum, hsize, haddrLen, haddrChar, hplPtr, hhdr, hpayload, hcfg, htx, hrx, hrdata,
    hevents]

section
variable {s : State}

/-! ## The bytes sent -/

/-- In `HDR_TX` the block offers the header (40_host_interface.md R121). -/
theorem txByte_of_hdrTx (hp : s.phase = .hdrTx) : txByte s = s.hdr.toList[s.idx.toNat]? := by
  rw [txByte, hp]
  exact Vector.getElem?_toList.symm

/-- TX_ACC in `HDR_TX` (45_read_transaction.md R222). -/
theorem txAdvance_of_hdrTx (hp : s.phase = .hdrTx) :
    txAdvance s = if s.idx.toNat < 16 then { s with idx := s.idx + 1 } else { s with idx := 0, phase := .ackRx } := by
  rw [txAdvance, hp]

theorem txByte_of_ackTx (hp : s.phase = .ackTx) : txByte s = some 0x06 := by
  rw [txByte, hp]
  rfl

theorem txByte_of_eotTx (hp : s.phase = .eotTx) : txByte s = some 0x04 := by
  rw [txByte, hp]
  rfl

/-- TX_ACC of the data acknowledge (45_read_transaction.md R225). -/
theorem txAccept_of_ackTx (b : Byte) (hp : s.phase = .ackTx) :
    txAccept b s = { s with txStream := s.txStream ++ [b], phase := .eotRx } := by
  rw [txAccept, txAdvance, hp]

/-- TX_ACC of the closing EOT (45_read_transaction.md R228). -/
theorem txAccept_of_eotTx (b : Byte) (hp : s.phase = .eotTx) :
    txAccept b s = { s with txStream := s.txStream ++ [b], phase := .closed, done := true } := by
  rw [txAccept, txAdvance, hp]

/-! ## The one-byte replies -/

theorem rxReady_of_phase {p : Phase} (hp : s.phase = p) (hr : p.reads = true) : rxReady s = true := by
  rw [rxReady, hp, hr]

theorem rxByte_of_ackRx (b : Byte) (hp : s.phase = .ackRx) : rxByte b s = .next (rxAck b s) := by
  rw [rxByte, hp]

theorem rxByte_of_eotRx (b : Byte) (hp : s.phase = .eotRx) : rxByte b s = .next (rxEot b s) := by
  rw [rxByte, hp]

/-- The header acknowledged (45_read_transaction.md R223). -/
theorem rxAck_of_ack : rxAck 0x06 s = { s with idx := 0, phase := .respRx } := if_pos rfl

/-- The header answered with any other byte (45_read_transaction.md R223). -/
theorem rxAck_of_not_ack {b : Byte} (hp : s.phase = .ackRx) (hb : b ≠ 0x06) :
    rxAck b s = { s with err := .requestRejected, done := true, phase := .idle } := by
  rw [← raise_of_busy (busy_of_phase hp rfl)]
  exact if_neg hb

/-- The partner's end of transaction (45_read_transaction.md R226). -/
theorem rxEot_of_eot : rxEot 0x04 s = { s with phase := .eotTx } := if_pos rfl

/-- Any other byte in its place (45_read_transaction.md R226). -/
theorem rxEot_of_not_eot {b : Byte} (hp : s.phase = .eotRx) (hb : b ≠ 0x04) :
    rxEot b s = { s with err := .transactionNotClosed, done := true, phase := .idle } := by
  rw [← raise_of_busy (busy_of_phase hp rfl)]
  exact if_neg hb

end

/-! ## The statements -/

/-- Settles O37: the byte of the header is the one offered, and its TX_ACC advances IDX inside the frame or ends it. -/
theorem headerByteAccepted : Obligations.HeaderByteAccepted := by
  intro s b hp hb
  have htransfer : transferGives b s (txAccept b s) := transferGives_txAccept ((txByte_of_hdrTx hp).trans hb)
  rw [txAccept, txAdvance_of_hdrTx hp] at htransfer
  split <;> rename_i hi
  · rwa [if_pos hi] at htransfer
  · rwa [if_neg hi] at htransfer

/-- Settles O38: each phase offers its one byte, and the TX_ACC of that byte ends the phase. -/
theorem ackAndEotAccepted : Obligations.AckAndEotAccepted := by
  intro s
  constructor <;> intro hp
  · rw [← txAccept_of_ackTx _ hp]
    exact transferGives_txAccept (txByte_of_ackTx hp)
  · rw [← txAccept_of_eotTx _ hp]
    exact transferGives_txAccept (txByte_of_eotTx hp)

/-- Settles O39: both phases read every byte, and the one expected byte goes on where any other aborts. -/
theorem replyAndEotReceived : Obligations.ReplyAndEotReceived := by
  intro s b
  have inAckRx (hp : s.phase = .ackRx) : transferGives b s (rxAck b s) :=
    transferGives_of_rxByte (rxReady_of_phase hp rfl) (rxByte_of_ackRx b hp)
  have inEotRx (hp : s.phase = .eotRx) : transferGives b s (rxEot b s) :=
    transferGives_of_rxByte (rxReady_of_phase hp rfl) (rxByte_of_eotRx b hp)
  refine ⟨fun hp hb => ?ack, fun hp hb => ?notAck, fun hp hb => ?eot, fun hp hb => ?notEot⟩
  case ack =>
    subst hb
    exact inAckRx hp
  case notAck =>
    rw [← rxAck_of_not_ack hp hb]
    exact inAckRx hp
  case eot =>
    subst hb
    exact inEotRx hp
  case notEot =>
    rw [← rxEot_of_not_eot hp hb]
    exact inEotRx hp

end Sys2Proof.Machine
end

section
/-! PROOFS of the statement about a whole READ_VALUE (45_read_transaction.md R229): runs and how they compose, then one
lemma for each part of the exchange, each naming the whole state at its end. -/

namespace Sys2Proof.Machine

/-! ## Runs -/

theorem run_succ_of_step {M : Host.Core} {n : Nat} {s t : M.State} (h : M.step s = .next t) :
    M.run (n + 1) s = M.run n t := by
  rw [Host.Core.run, h]

theorem run_add_of_run {M : Host.Core} {m n : Nat} {s t : M.State} (h : M.run m s = .next t) :
    M.run (m + n) s = M.run n t := by
  induction m generalizing s with
  | zero =>
    cases h
    rw [Nat.zero_add]
  | succ m ih =>
    rw [Nat.succ_add]
    rw [Host.Core.run] at h ⊢
    cases hs : M.step s <;> rw [hs] at h
    case next u => exact ih h
    case fault | refused => cases h

/-- n steps lead from s to t. -/
def runsTo (n : Nat) (s t : State) : Prop := Host.Core.run Sys2Proof.core n s = .next t

theorem runsTo_succ {n : Nat} {s t u : State} (h : step s = .next t) (hr : runsTo n t u) : runsTo (n + 1) s u :=
  (run_succ_of_step (M := Sys2Proof.core) h).trans hr

theorem runsTo_one {s t : State} (h : step s = .next t) : runsTo 1 s t := runsTo_succ h rfl

theorem runsTo_trans {m n : Nat} {s t u : State} (hst : runsTo m s t) (htu : runsTo n t u) : runsTo (m + n) s u :=
  (run_add_of_run (M := Sys2Proof.core) hst).trans htu

/-- The state with other events and received bytes still to come. -/
abbrev withInput (es : List Event) (bs : List Byte) (s : State) : State := { s with events := es, rxStream := bs }

/-- A run that starts with the RX of b. -/
theorem runsTo_rx {n : Nat} {s t u : State} {b : Byte} {bs : List Byte} {es : List Event}
    (he : s.events = .rx :: es) (hr : rxReady s = true) (hbs : s.rxStream = b :: bs)
    (ht : rxByte b (withInput es bs s) = .next t) (hrun : runsTo n t u) : runsTo (n + 1) s u :=
  runsTo_succ ((step_rx he hr hbs).trans ht) hrun

/-- A run that starts with the TX_ACC of b. -/
theorem runsTo_txAcc {n : Nat} {s t u : State} {b : Byte} {es : List Event} (he : s.events = .txAcc :: es)
    (hb : txByte s = some b) (ht : txAccept b { s with events := es } = t) (hrun : runsTo n t u) :
    runsTo (n + 1) s u :=
  runsTo_succ ((step_txAcc he hb).trans (congrArg _ ht)) hrun

/-! ## Frames sent -/

/-- In s the block sends `frame`, the enquiry or the header, and then goes to the phase q (41_handshake.md R143,
45_read_transaction.md R222). -/
def sendsFrame (frame : List Byte) (q : Phase) (s : State) : Prop :=
  (s.phase = .enqTx ∧ q = .enqRx ∧ frame = (enqFrame s.cfg).toList) ∨
  (s.phase = .hdrTx ∧ q = .ackRx ∧ frame = s.hdr.toList)

theorem head_and_length_of_drop {α : Type} {l rest : List α} {i : Nat} {b : α} (h : l.drop i = b :: rest) :
    l[i]? = some b ∧ l.length = i + rest.length + 1 := by
  have hlen : (l.drop i).length = rest.length + 1 := by rw [h, List.length_cons]
  rw [List.length_drop] at hlen
  exact ⟨by rw [← List.head?_drop, h, List.head?_cons], by omega⟩

section
variable {s : State} {frame : List Byte} {q : Phase}

theorem length_le_of_sendsFrame (h : sendsFrame frame q s) : frame.length ≤ 17 := by
  rcases h with ⟨_, _, rfl⟩ | ⟨_, _, rfl⟩ <;> simp

theorem txByte_of_sendsFrame (h : sendsFrame frame q s) : txByte s = frame[s.idx.toNat]? := by
  rcases h with ⟨hp, _, rfl⟩ | ⟨hp, _, rfl⟩
  · exact txByte_of_enqTx hp
  · exact txByte_of_hdrTx hp

theorem txAdvance_of_sendsFrame (h : sendsFrame frame q s) :
    txAdvance s =
      if s.idx.toNat + 1 < frame.length then { s with idx := s.idx + 1 } else { s with idx := 0, phase := q } := by
  rcases h with ⟨hp, rfl, rfl⟩ | ⟨hp, rfl, rfl⟩ <;> rw [Vector.length_toList]
  · simp only [txAdvance_of_enqTx hp, Nat.add_lt_iff_lt_sub_right]
  · simp only [txAdvance_of_hdrTx hp, Nat.add_lt_iff_lt_sub_right]

/-- TX_ACC of a byte that is not the last of its frame. -/
theorem step_of_sendsFrame {b c : Byte} {rest : List Byte} {es : List Event} (h : sendsFrame frame q s)
    (hrest : frame.drop s.idx.toNat = b :: c :: rest) (he : s.events = .txAcc :: es) :
    step s = .next { s with events := es, txStream := s.txStream ++ [b], idx := s.idx + 1 } := by
  obtain ⟨hb, hlen⟩ := head_and_length_of_drop hrest
  have hlt : s.idx.toNat + 1 < frame.length := by simp [hlen]
  rw [step_txAcc he ((txByte_of_sendsFrame h).trans hb), txAccept,
    txAdvance_of_sendsFrame (s := { s with events := es }) h, if_pos hlt]

/-- TX_ACC of the last byte of a frame. -/
theorem step_of_sendsFrame_last {b : Byte} {es : List Event} (h : sendsFrame frame q s)
    (hrest : frame.drop s.idx.toNat = [b]) (he : s.events = .txAcc :: es) :
    step s = .next { s with events := es, txStream := s.txStream ++ [b], idx := 0, phase := q } := by
  obtain ⟨hb, hlen⟩ := head_and_length_of_drop hrest
  have hlt : ¬ s.idx.toNat + 1 < frame.length := by simp [hlen]
  rw [step_txAcc he ((txByte_of_sendsFrame h).trans hb), txAccept,
    txAdvance_of_sendsFrame (s := { s with events := es }) h, if_neg hlt]

/-- TX_ACC of each byte left of the frame sends exactly these bytes. -/
theorem runsTo_sendRest {b : Byte} {rest : List Byte} {es : List Event} (h : sendsFrame frame q s)
    (hrest : frame.drop s.idx.toNat = b :: rest) (he : s.events = List.replicate (rest.length + 1) Event.txAcc ++ es) :
    runsTo (rest.length + 1) s
      { s with events := es, txStream := s.txStream ++ b :: rest, idx := 0, phase := q } := by
  induction rest generalizing s b with
  | nil => exact runsTo_one (step_of_sendsFrame_last h hrest he)
  | cons c rest ih =>
    have hidx : (s.idx + 1).toNat = s.idx.toNat + 1 := by
      obtain ⟨_, hlen⟩ := head_and_length_of_drop hrest
      have := length_le_of_sendsFrame h
      bv_omega
    have hdrop : frame.drop (s.idx + 1).toNat = c :: rest := by
      rw [hidx, ← List.drop_drop, hrest]
      rfl
    have hrun := runsTo_succ (step_of_sendsFrame h hrest he) (ih h hdrop rfl)
    rwa [List.append_assoc] at hrun

/-- TX_ACC of each byte of the frame. -/
theorem runsTo_sendFrame {n : Nat} {es : List Event} (h : sendsFrame frame q s) (hidx : s.idx = 0)
    (hlen : frame.length = n + 1) (he : s.events = List.replicate (n + 1) Event.txAcc ++ es) :
    runsTo (n + 1) s { s with events := es, txStream := s.txStream ++ frame, idx := 0, phase := q } := by
  obtain ⟨b, rest, rfl⟩ := List.exists_cons_of_length_eq_add_one hlen
  obtain rfl : rest.length = n := Nat.succ.inj hlen
  exact runsTo_sendRest h (by rw [hidx]; rfl) he

end

/-! ## The handshake and the header's reply -/

section
variable {s : State} {es : List Event} {bs : List Byte}

/-- READ_VALUE taken from CMD while BUSY = 0 (45_read_transaction.md R220). -/
theorem step_readValue (hb : busy s = false) (he : s.events = .regWr 0x00 0x0006 :: es) :
    step s = .next (startHandshake .readValue (clearResponse (accept { s with events := es }))) := by
  have hb' : busy { s with events := es } = false := hb
  obtain ⟨hdecode, _⟩ := readValueStartsHandshake
  rw [step_cmd he, runWord_cmd_of_decodeCmd hdecode, exec_command_of_idle rfl hb']
  rfl

/-- The first reply byte (41_handshake.md R144). -/
theorem rxByte_enqRx_first (b : Byte) (hp : s.phase = .enqRx) (hi : s.idx = 0) :
    rxByte b s = .next { s with echo := s.echo.set 0 b, idx := 1 } := by
  simp [rxByte_of_enqRx b hp, rxEnq, hi]

/-- The second reply byte (41_handshake.md R144). -/
theorem rxByte_enqRx_second (b : Byte) (hp : s.phase = .enqRx) (hi : s.idx = 1) :
    rxByte b s = .next { s with echo := s.echo.set 1 b, idx := 2 } := by
  simp [rxByte_of_enqRx b hp, rxEnq, hi]

theorem vector3_set_all {α : Type} (v : Vector α 3) (a b c : α) : ((v.set 0 a).set 1 b).set 2 c = #v[a, b, c] := by
  rw [← Vector.toList_inj, vector3_set_two_toList]
  simp

/-- The third byte of an expected reply leads a READ_VALUE on to its header (45_read_transaction.md R221). -/
theorem rxByte_enqRx_expected {b : Byte} {h : Vector Byte 17} (hp : s.phase = .enqRx) (hi : s.idx = 2)
    (hecho : s.echo.set 2 b = expFrame s.cfg) (hk : s.opk = .readValue) (hh : encodeHeader 0x0 s = .ok h) :
    rxByte b s =
      .next { s with echo := expFrame s.cfg, hdr := h, hdrValid := true, idx := 0, phase := .hdrTx } := by
  have hi' : s.idx.toNat = 2 := by rw [hi]; rfl
  have hh' : encodeHeader 0x0 { s with echo := expFrame s.cfg } = .ok h := hh
  rw [rxByte_enqRx_of_eq_two b hp hi', hecho,
    handshakeComplete_of_readValue (s := { s with echo := expFrame s.cfg }) rfl hk, startHeader_of_ok hh']

/-- The expected reply completes the handshake of a READ_VALUE (41_handshake.md R144, R145). -/
theorem runsTo_expectedReply {h : Vector Byte 17} (hp : s.phase = .enqRx) (hi : s.idx = 0) (hk : s.opk = .readValue)
    (hh : encodeHeader 0x0 s = .ok h) (he : s.events = List.replicate 3 Event.rx ++ es)
    (hbs : s.rxStream = (expFrame s.cfg).toList ++ bs) :
    runsTo 3 s
      { s with
        events := es, rxStream := bs, echo := expFrame s.cfg, hdr := h, hdrValid := true, idx := 0,
        phase := .hdrTx } := by
  have hr : rxReady s = true := rxReady_of_phase hp rfl
  refine runsTo_rx he hr hbs (rxByte_enqRx_first _ hp hi) ?_
  refine runsTo_rx rfl hr rfl (rxByte_enqRx_second _ hp rfl) ?_
  exact runsTo_rx rfl hr rfl (rxByte_enqRx_expected hp rfl (vector3_set_all ..) hk hh) rfl

/-- The enquiry of a READ_VALUE and its expected reply (45_read_transaction.md R229). -/
theorem runsTo_handshake {h : Vector Byte 17} (hp : s.phase = .enqTx) (hi : s.idx = 0) (hk : s.opk = .readValue)
    (hh : encodeHeader 0x0 s = .ok h)
    (he : s.events = List.replicate 3 Event.txAcc ++ (List.replicate 3 Event.rx ++ es))
    (hbs : s.rxStream = (expFrame s.cfg).toList ++ bs) :
    runsTo 6 s
      { s with
        events := es, rxStream := bs, txStream := s.txStream ++ (enqFrame s.cfg).toList, echo := expFrame s.cfg,
        hdr := h, hdrValid := true, idx := 0, phase := .hdrTx } :=
  runsTo_trans (m := 3) (n := 3) (runsTo_sendFrame (.inl ⟨hp, rfl, rfl⟩) hi rfl he)
    (runsTo_expectedReply rfl rfl hk hh rfl hbs)

/-- The header and its acknowledge (45_read_transaction.md R222, R223). -/
theorem runsTo_header (hp : s.phase = .hdrTx) (hi : s.idx = 0)
    (he : s.events = List.replicate 17 Event.txAcc ++ ([Event.rx] ++ es)) (hbs : s.rxStream = [0x06] ++ bs) :
    runsTo 18 s
      { s with
        events := es, rxStream := bs, txStream := s.txStream ++ s.hdr.toList, idx := 0, phase := .respRx } := by
  refine runsTo_trans (m := 17) (n := 1)
    (runsTo_sendFrame (.inr ⟨hp, rfl, rfl⟩) hi Vector.length_toList he) ?_
  exact runsTo_rx rfl rfl hbs ((rxByte_of_ackRx _ rfl).trans (congrArg _ rxAck_of_ack)) rfl

end

/-! ## The response -/

/-- PAYLOAD with the bytes d written from index 0 on. -/
def Memory.writeBytes (m : Memory) (d : List Byte) : Memory :=
  d.zipIdx.foldl (fun m c => Memory.write m c.2 c.1) m

theorem Memory.writeBytes_append_singleton (m : Memory) (d : List Byte) (b : Byte) :
    Memory.writeBytes m (d ++ [b]) = Memory.write (Memory.writeBytes m d) d.length b := by
  simp [Memory.writeBytes, List.zipIdx_append]

theorem Memory.prefixBytes_writeBytes (m : Memory) (d : List Byte) :
    Memory.prefixBytes (Memory.writeBytes m d) d.length = d := by
  induction d using List.reverseRecOn with
  | nil => rfl
  | append_singleton d b ih =>
    rw [Memory.writeBytes_append_singleton, List.length_append, List.length_singleton, Memory.prefixBytes_write, ih]

/-- The state after the data bytes d of a response (44_response_parser.md R203). -/
def withData (d : List Byte) (s : State) : State :=
  { s with
    payload := Memory.writeBytes s.payload d, plLen := BitVec.ofNat 16 d.length, rcsum := fold d,
    idx := BitVec.ofNat 17 (d.length + 1) }

section
variable {s : State} {es : List Event} {bs d : List Byte}

theorem withData_idx_toNat (hd : d.length ≤ s.size.toNat) : (withData d s).idx.toNat = d.length + 1 := by
  have := s.size.isLt
  rw [withData, BitVec.toNat_ofNat]
  omega

/-- One more data byte. -/
theorem respData_withData (b : Byte) (hd : d.length ≤ s.size.toNat) :
    respData b (withData d s) = withData (d ++ [b]) s := by
  have hlen : (withData d s).idx.setWidth 16 = BitVec.ofNat 16 (d.length + 1) :=
    BitVec.setWidth_ofNat_of_le (by decide) _
  have hnext : (withData d s).idx + 1 = BitVec.ofNat 17 (d.length + 1 + 1) := (BitVec.ofNat_add _ _).symm
  rw [respData, withData_idx_toNat hd, hlen, hnext]
  simp [withData, fold_append_singleton, Memory.writeBytes_append_singleton]

/-- The STX position, where a response starts with no data (44_response_parser.md R200, R202). -/
theorem rxByte_stx (stx : Byte) (hp : s.phase = .respRx) (hi : s.idx = 0) (hlen : s.plLen = 0)
    (hrcsum : s.rcsum = 0x00) : rxByte stx s = .next (withData [] { s with respStx := stx }) := by
  have hi' : s.idx.toNat = 0 := by rw [hi]; rfl
  rw [rxByte_of_respRx stx hp, rxResp_of_stx stx hi']
  simp [withData, Memory.writeBytes, hlen, hrcsum, fold]

/-- A data position (44_response_parser.md R203). -/
theorem rxByte_data (b : Byte) (hp : s.phase = .respRx) (hd : d.length < s.size.toNat) :
    rxByte b (withData d s) = .next (withData (d ++ [b]) s) := by
  have hp' : (withData d s).phase = .respRx := hp
  have hidx := withData_idx_toNat hd.le
  have hin : (withData d s).idx.toNat ≤ (withData d s).size.toNat := hidx.trans_le hd
  rw [rxByte_of_respRx b hp', rxResp_of_data b (by omega) hin, respData_withData b hd.le]

/-- RX of each data byte of a response. -/
theorem runsTo_data (hp : s.phase = .respRx) (hd : d.length ≤ s.size.toNat)
    (he : s.events = List.replicate d.length Event.rx ++ es) (hbs : s.rxStream = d ++ bs) :
    runsTo d.length (withData [] s) (withData d (withInput es bs s)) := by
  induction d using List.reverseRecOn generalizing es bs with
  | nil =>
    obtain rfl : es = s.events := he.symm
    obtain rfl : bs = s.rxStream := hbs.symm
    rfl
  | append_singleton d b ih =>
    rw [List.length_append, List.length_singleton] at hd he ⊢
    rw [List.replicate_succ', List.append_assoc] at he
    rw [List.append_assoc] at hbs
    have hbyte := rxByte_data (s := withInput es bs s) b hp hd
    exact runsTo_trans (ih (by omega) he hbs) (runsTo_rx rfl (rxReady_of_respRx hp) rfl hbyte rfl)

/-- The ETX position, after all data bytes (44_response_parser.md R204). -/
theorem rxByte_etx (etx : Byte) (hp : s.phase = .respRx) (hd : d.length = s.size.toNat) :
    rxByte etx (withData d s) = .next (respEtxByte etx (withData d s)) := by
  have hp' : (withData d s).phase = .respRx := hp
  have hi : (withData d s).idx.toNat = (withData d s).size.toNat + 1 :=
    (withData_idx_toNat hd.le).trans (congrArg (· + 1) hd)
  rw [rxByte_of_respRx etx hp', rxResp_of_etx etx hi]

/-- The checksum position of a frame that is accepted: any frame in lenient mode, a good one in strict mode
(44_response_parser.md R205, R207, R208). -/
theorem rxByte_checksum {ck : Byte} (hp : s.phase = .respRx) (hi : s.idx.toNat = s.size.toNat + 2)
    (hgood : s.cfg.strictResponse = true → s.respStx = 0x02 ∧ s.respEtx = 0x03 ∧ ck = s.rcsum) :
    rxByte ck s = .next { respChecks ck s with idx := 0, phase := .ackTx } := by
  have haccepted :
      s.cfg.strictResponse = false ∨ ¬ (s.respStx ≠ codeStx ∨ s.respEtx ≠ codeEtx ∨ s.rcsum ≠ ck) := by
    cases hstrict : s.cfg.strictResponse with
    | false => exact .inl rfl
    | true =>
      obtain ⟨hstx, hetx, hck⟩ := hgood hstrict
      simp [hstx, hetx, hck, codeStx, codeEtx]
  rw [rxByte_of_respRx ck hp, rxResp_of_last ck hi, respLast_of_accepted haccepted]

theorem fold_responseSpan (p : Params) (d : List Byte) (etx : Byte) :
    fold (responseSpan p d etx) = if p.respCsumSpan = .dataEtx then fold d ^^^ etx else fold d := by
  unfold responseSpan
  cases p.respCsumSpan with
  | data => rfl
  | dataEtx => exact fold_append_singleton d etx

/-- The state s with all that a complete response of the bytes stx, d, etx, ck leaves in it (44_response_parser.md
R209). -/
def withResponse (stx : Byte) (d : List Byte) (etx ck : Byte) (s : State) : State :=
  { s with
    payload := Memory.writeBytes s.payload d, plLen := s.size, respStx := stx, respEtx := etx, respCk := ck,
    rcsum := fold (responseSpan s.cfg d etx), stxOk := decide (stx = 0x02), etxOk := decide (etx = 0x03),
    csumOk := decide (fold (responseSpan s.cfg d etx) = ck), idx := 0 }

theorem respEtxByte_withData_idx_toNat (etx : Byte) (hd : d.length = s.size.toNat) :
    (respEtxByte etx (withData d s)).idx.toNat = s.size.toNat + 2 := by
  have hidx : (withData d s).idx.toNat = s.size.toNat + 1 := by rw [withData_idx_toNat hd.le, hd]
  rw [respEtxByte_idx, idx_succ_toNat hidx.le, hidx]

/-- The reports are computed from the response (44_response_parser.md R201, R205). -/
theorem respChecks_respEtxByte_withData (etx ck : Byte) (hd : d.length = s.size.toNat) :
    { respChecks ck (respEtxByte etx (withData d s)) with idx := 0, phase := .ackTx } =
      { withResponse s.respStx d etx ck s with phase := .ackTx } := by
  have hlen : BitVec.ofNat 16 d.length = s.size := by rw [hd, BitVec.ofNat_toNat, BitVec.setWidth_eq]
  rw [withData, withResponse, hlen, fold_responseSpan]
  rfl

/-- RX of the ETX and checksum bytes of a frame that is accepted. -/
theorem runsTo_frameEnd {etx ck : Byte} (hp : s.phase = .respRx) (hd : d.length = s.size.toNat)
    (hgood : s.cfg.strictResponse = true →
      s.respStx = 0x02 ∧ etx = 0x03 ∧ ck = fold (responseSpan s.cfg d etx))
    (he : s.events = [Event.rx, .rx] ++ es) (hbs : s.rxStream = [etx, ck] ++ bs) :
    runsTo 2 (withData d s) { withResponse s.respStx d etx ck (withInput es bs s) with phase := .ackTx } := by
  have hr : rxReady s = true := rxReady_of_respRx hp
  rw [fold_responseSpan] at hgood
  have hetx := rxByte_etx (s := withInput (.rx :: es) (ck :: bs) s) etx hp hd
  have hidx := respEtxByte_withData_idx_toNat (s := withInput es bs s) etx hd
  have hck := rxByte_checksum (s := respEtxByte etx (withData d (withInput es bs s))) hp hidx hgood
  rw [respChecks_respEtxByte_withData (s := withInput es bs s) etx ck hd] at hck
  exact runsTo_rx he hr hbs hetx (runsTo_rx rfl hr rfl hck rfl)

/-- RX of a whole response that is accepted (44_response_parser.md R202 to R205). -/
theorem runsTo_response {stx etx ck : Byte} (hp : s.phase = .respRx) (hi : s.idx = 0) (hlen : s.plLen = 0)
    (hrcsum : s.rcsum = 0x00) (hd : d.length = s.size.toNat)
    (hgood : s.cfg.strictResponse = true → stx = 0x02 ∧ etx = 0x03 ∧ ck = fold (responseSpan s.cfg d etx))
    (he : s.events = List.replicate (d.length + 3) Event.rx ++ es)
    (hbs : s.rxStream = [stx] ++ d ++ [etx, ck] ++ bs) :
    runsTo (d.length + 3) s { withResponse stx d etx ck (withInput es bs s) with phase := .ackTx } := by
  have he' : s.events = .rx :: (List.replicate d.length Event.rx ++ ([Event.rx, .rx] ++ es)) := by
    rw [he, ← List.append_assoc, ← List.cons_append]
    congr 1
    exact List.replicate_succ.trans (congrArg _ List.replicate_append_replicate.symm)
  have hbs' : s.rxStream = stx :: (d ++ ([etx, ck] ++ bs)) := by simp [hbs]
  have hdata := runsTo_data (s := withInput _ _ { s with respStx := stx }) (es := [Event.rx, .rx] ++ es)
    (bs := [etx, ck] ++ bs) hp hd.le rfl rfl
  have hend := runsTo_frameEnd (s := withInput ([Event.rx, .rx] ++ es) ([etx, ck] ++ bs) { s with respStx := stx })
    hp hd hgood rfl rfl
  exact runsTo_rx he' (rxReady_of_respRx hp) hbs' (rxByte_stx stx hp hi hlen hrcsum) (runsTo_trans hdata hend)

end

/-! ## The end of the exchange -/

section
variable {s : State} {es : List Event} {bs : List Byte}

/-- The data acknowledged, the partner's EOT read, the closing EOT sent (45_read_transaction.md R225, R226, R228). -/
theorem runsTo_close (hp : s.phase = .ackTx) (he : s.events = [Event.txAcc, .rx, .txAcc] ++ es)
    (hbs : s.rxStream = [0x04] ++ bs) :
    runsTo 3 s
      { s with
        events := es, rxStream := bs, txStream := s.txStream ++ [0x06] ++ [0x04], phase := .closed, done := true } := by
  refine runsTo_txAcc he (txByte_of_ackTx hp) (txAccept_of_ackTx _ hp) ?_
  refine runsTo_rx rfl rfl hbs ((rxByte_of_eotRx _ rfl).trans (congrArg _ rxEot_of_eot)) ?_
  exact runsTo_txAcc rfl (txByte_of_eotTx rfl) (txAccept_of_eotTx _ rfl) rfl

/-- The whole exchange of an accepted READ_VALUE: handshake, header, response, end (45_read_transaction.md R229). -/
theorem runsTo_exchange {h : Vector Byte 17} {stx etx ck : Byte} {d : List Byte} (hp : s.phase = .enqTx)
    (hi : s.idx = 0) (hk : s.opk = .readValue) (hlen : s.plLen = 0) (hrcsum : s.rcsum = 0x00)
    (hh : encodeHeader 0x0 s = .ok h) (hd : d.length = s.size.toNat)
    (hgood : s.cfg.strictResponse = true → stx = 0x02 ∧ etx = 0x03 ∧ ck = fold (responseSpan s.cfg d etx))
    (he : s.events = (readEvents d.length).tail ++ es)
    (hbs : s.rxStream =
      [0x4E, 0x20 + s.cfg.clientId.setWidth 8, 0x06] ++ [0x06] ++ ([stx] ++ d ++ [etx, ck]) ++ [0x04] ++ bs) :
    runsTo (6 + (18 + (d.length + 3 + 3))) s
      { withResponse stx d etx ck s with
        events := es, rxStream := bs,
        txStream := s.txStream ++ (enqFrame s.cfg).toList ++ h.toList ++ [0x06] ++ [0x04], echo := expFrame s.cfg,
        hdr := h, hdrValid := true, phase := .closed, done := true } := by
  have he' : s.events = List.replicate 3 Event.txAcc ++ (List.replicate 3 Event.rx ++
      (List.replicate 17 Event.txAcc ++ ([Event.rx] ++
        (List.replicate (d.length + 3) Event.rx ++ ([Event.txAcc, .rx, .txAcc] ++ es))))) := by
    simp [he, readEvents]
  have hbs' : s.rxStream =
      (expFrame s.cfg).toList ++ ([0x06] ++ (([stx] ++ d ++ [etx, ck]) ++ ([0x04] ++ bs))) := by
    rw [hbs]
    simp only [List.append_assoc]
    rfl
  exact runsTo_trans (runsTo_handshake hp hi hk hh he' hbs') <|
    runsTo_trans (runsTo_header rfl rfl rfl rfl) <|
      runsTo_trans (runsTo_response rfl rfl hlen hrcsum hd hgood rfl rfl) <|
        runsTo_close rfl rfl rfl

end

/-- Settles O42: the command is accepted, and its exchange runs. -/
theorem successfulReadExchange : Obligations.SuccessfulReadExchange := by
  intro s h stx etx ck d es bs hb hh hd hgood he hbs
  rw [← hd] at he
  have hrun := runsTo_succ (step_readValue hb he) (runsTo_exchange rfl rfl rfl rfl rfl hh hd hgood rfl hbs)
  rw [show 6 + (18 + (d.length + 3 + 3)) + 1 = s.size.toNat + 31 by omega] at hrun
  have hdata : Memory.prefixBytes (Memory.writeBytes s.payload d) s.size.toNat = d :=
    hd ▸ Memory.prefixBytes_writeBytes s.payload d
  exact ⟨_, hrun, rfl, rfl, rfl, rfl, rfl, hdata, rfl, rfl, rfl, rfl, rfl, rfl, rfl, rfl, rfl, rfl, rfl, rfl, rfl⟩

end Sys2Proof.Machine
end

section
/-! PROOFS of the statement about the abort (60_exceptions.md R253): BUSY as the range of the phase's code, and the
outputs of the state an abort leaves. -/

namespace Sys2Proof.Machine

/-- BUSY as the range of the phase's code (10_state.md R26). -/
theorem busy_iff_phase_code (s : State) : busy s = true ↔ 1 ≤ s.phase.code.toNat ∧ s.phase.code.toNat ≤ 8 := by
  unfold busy
  cases s.phase <;> decide

/-- After an abort in a link command the block offers no byte and waits for none (60_exceptions.md R253). -/
theorem raise_ports_of_busy {s : State} (h : busy s = true) (e : ErrCode) :
    txValid (raise e s) = false ∧ rxReady (raise e s) = false := by
  rw [raise_of_busy h]
  exact ⟨rfl, rfl⟩

/-- Settles O44: the range of the phase decides BUSY, and BUSY decides whether the abort ends a link command. -/
theorem raiseAborts : Obligations.RaiseAborts := by
  intro e s
  constructor
  case left =>
    intro hlo hhi
    have hb : busy s = true := (busy_iff_phase_code s).mpr ⟨hlo, hhi⟩
    exact ⟨raise_of_busy hb e, raise_ports_of_busy hb e⟩
  case right =>
    intro hout
    have hb : ¬ busy s = true := by
      rw [busy_iff_phase_code]
      omega
    exact raise_of_idle (Bool.eq_false_of_not_eq_true hb) e

end Sys2Proof.Machine
end

section
/-! PROOFS of the statements about reset and the hazards (70_reset_and_hazards.md): which parameters a RESET samples, and
that a phase waits for its own events. -/

namespace Sys2Proof.Machine

/-! ## RESET -/

/-- The parameters that 00_scope.md R10 calls well formed; distinct keys are the model's reading (log 5). -/
theorem rawParams_wf_iff (p : RawParams) :
    p.wf = true ↔ p.clientId ≠ 0 ∧ (∀ e ∈ p.memType, e.2 ≤ 15) ∧ (p.memType.map Prod.fst).Nodup ∧
      p.memType.lookup 0x56 = some 1 := by
  simp [RawParams.wf, keysDistinct, and_assoc]

/-- The parameters a RESET takes from well-formed ones: each memory-type code in its 4 bits (00_scope.md R10). -/
theorem sampleParams_of_wf {p : RawParams} (h : p.wf = true) :
    sampleParams p =
      some { clientId := p.clientId, memType := p.memType.map (fun e => (e.1, BitVec.ofNat 4 e.2)),
             strictResponse := p.strictResponse, respCsumSpan := p.respCsumSpan } :=
  if_pos h

theorem sampleParams_of_not_wf {p : RawParams} (h : ¬ p.wf = true) : sampleParams p = none := if_neg h

theorem resetEvent_of_sampled {p : RawParams} {c : Params} (h : sampleParams p = some c) (s : State) :
    resetEvent p s = .next (resetWith c s) := by
  simp [resetEvent, h]

theorem resetEvent_of_unsampled {p : RawParams} (h : sampleParams p = none) (s : State) :
    resetEvent p s = .refused .illFormedConfig := by
  simp [resetEvent, h]

/-- Settles O48: the parameters are sampled exactly if they are well formed, and the sampled ones decide the outcome. -/
theorem resetEventClearsAndSamples : Obligations.ResetEventClearsAndSamples := by
  intro s p es he legal
  have hlegal : p.wf = true ↔ legal := rawParams_wf_iff p
  rw [← hlegal, step_reset he]
  constructor
  case left =>
    intro hwf
    exact ⟨_, resetEvent_of_sampled (sampleParams_of_wf hwf) _, rfl, rfl, rfl, rfl⟩
  case right =>
    intro hwf
    exact resetEvent_of_unsampled (sampleParams_of_not_wf hwf) _

/-! ## The events by which a phase can be left -/

/-- The events that may end the phase p: TX_ACC where it sends, RX and RX_TIMEOUT where it reads, RESET always
(70_reset_and_hazards.md R289, R290). -/
def mayEnd (p : Phase) : Event → Bool
  | .reset _ => true
  | .txAcc => p.sends
  | .rx | .rxTimeout => p.reads
  | .regRd _ | .regWr _ _ => false

theorem sends_of_mem {p : Phase} (h : p ∈ [.enqTx, .hdrTx, .ackTx, .eotTx]) :
    p.sends = true ∧ p.reads = false ∧ p.busy = true := by
  revert h
  cases p <;> decide

theorem reads_of_mem {p : Phase} (h : p ∈ [.enqRx, .ackRx, .respRx, .eotRx]) :
    p.sends = false ∧ p.reads = true ∧ p.busy = true := by
  revert h
  cases p <;> decide

theorem rxTimeout_of_not_rxReady {s : State} (h : rxReady s = false) : rxTimeout s = s := by
  refine rxTimeout_of_not_reads fun hmem => ?_
  obtain ⟨_, hreads, _⟩ := reads_of_mem hmem
  exact absurd (hreads.symm.trans h) (by decide)

/-- A busy block takes any other event without leaving its phase, and without stopping. -/
theorem step_waits {s : State} {e : Event} {es : List Event} (hb : busy s = true) (he : s.events = e :: es)
    (hw : mayEnd s.phase e = false) : ∃ t, step s = .next t ∧ t.phase = s.phase ∧ t.events = es := by
  cases e with
  | regRd i => exact ⟨_, step_regRd he, rfl, rfl⟩
  | regWr i v => exact ⟨_, step_regWr_of_busy he hb, rfl, rfl⟩
  | txAcc =>
    obtain ⟨htx, _, _⟩ := eventNotEnabledChangesNothing s es
    exact ⟨_, htx he hw, rfl, rfl⟩
  | rx => exact ⟨_, step_rx_idle he (.inl hw), rfl, rfl⟩
  | rxTimeout =>
    refine ⟨_, step_rxTimeout he, ?_⟩
    rw [rxTimeout_of_not_rxReady (s := { s with events := es }) hw]
    exact ⟨rfl, rfl⟩
  | reset p => cases hw

/-- The hang of R289 and R290: a busy block whose next n events do not end its phase is in that phase after n steps. -/
theorem runsTo_waits {n : Nat} {s : State} (hb : busy s = true)
    (hw : ∀ e ∈ s.events.take n, mayEnd s.phase e = false) : ∃ t, runsTo n s t ∧ t.phase = s.phase := by
  induction n generalizing s with
  | zero => exact ⟨s, rfl, rfl⟩
  | succ n ih =>
    cases he : s.events with
    | nil =>
      obtain ⟨t, hrun, hp⟩ := ih hb (by simp [he])
      exact ⟨t, runsTo_succ (step_nil he) hrun, hp⟩
    | cons e es =>
      rw [he, List.take_succ_cons, List.forall_mem_cons] at hw
      obtain ⟨hfirst, hrest⟩ := hw
      obtain ⟨u, hstep, hpu, hes⟩ := step_waits hb he hfirst
      have hbu : busy u = true := (congrArg Phase.busy hpu).trans hb
      obtain ⟨t, hrun, hpt⟩ := ih hbu (by rwa [hes, hpu])
      exact ⟨t, runsTo_succ hstep hrun, hpt.trans hpu⟩

/-- The end of a run through events that do not end the phase. -/
theorem waits_of_runsTo {n : Nat} {s t : State} (h : runsTo n s t) (hb : busy s = true)
    (hw : ∀ e ∈ s.events.take n, mayEnd s.phase e = false) : t.phase = s.phase ∧ busy t = true := by
  obtain ⟨u, hrun, hp⟩ := runsTo_waits hb hw
  obtain rfl : t = u := Host.Outcome.next.inj (h.symm.trans hrun)
  exact ⟨hp, (congrArg Phase.busy hp).trans hb⟩

/-- Settles O46: in each kind of phase, the events left out of the list are all that may end it. -/
theorem portPhaseWaitsForItsEvents : Obligations.PortPhaseWaitsForItsEvents := by
  intro n s t hrun hreset
  constructor
  case left =>
    intro hp hacc
    obtain ⟨_, hreads, hbusy⟩ := sends_of_mem hp
    refine waits_of_runsTo hrun hbusy fun e hmem => ?_
    cases e with
    | reset p => exact absurd hmem (hreset p)
    | txAcc => exact absurd hmem hacc
    | rx | rxTimeout => exact hreads
    | regRd i | regWr i v => rfl
  case right =>
    intro hp hrx htimeout
    obtain ⟨hsends, _, hbusy⟩ := reads_of_mem hp
    refine waits_of_runsTo hrun hbusy fun e hmem => ?_
    cases e with
    | reset p => exact absurd hmem (hreset p)
    | txAcc => exact hsends
    | rx => exact absurd hmem hrx
    | rxTimeout => exact absurd hmem htimeout
    | regRd i | regWr i v => rfl

end Sys2Proof.Machine
end

section
/-! PROOFS of the statements about the decoder (30_encoding.md): it answers every instruction for that instruction's own
encoding, and for no other word. -/

namespace Sys2Proof.Machine

/-! ## The fields of a command word -/

/-- A command word is its code, its operand and RSV = 0 (30_encoding.md R93). -/
theorem cmdWord_toNat (c : Nibble) (b : Byte) : (cmdWord c b).toNat = b.toNat * 256 + c.toNat := by
  simp only [cmdWord, toNat_append_eq_mul_add, BitVec.ofNat_eq_ofNat, BitVec.toNat_zero]
  omega

/-- A command word with RSV = 0 is put together from its fields again, so no bit of it is dropped. -/
theorem cmdWord_eq_of_fields {v : Word} {c : Nibble} {b : Byte} (hr : cmdRsv v = 0)
    (hc : (cmdCode v).toNat = c.toNat) (hb : cmdOpnd v = b) : cmdWord c b = v := by
  have hopnd : b.toNat = v.toNat / 256 := by
    have hv := v.isLt
    rw [← hb, cmdOpnd, BitVec.extractLsb'_toNat, Nat.shiftRight_eq_div_pow]
    omega
  rw [cmdRsv_eq_zero_iff] at hr
  rw [cmdCode_toNat] at hc
  apply BitVec.eq_of_toNat_eq
  rw [cmdWord_toNat]
  omega

theorem withoutOperand_eq_ok {v : Word} {i j : Instr} (h : withoutOperand v i = .ok j) : cmdOpnd v = 0 ∧ i = j := by
  unfold withoutOperand at h
  split at h <;> cases h
  exact ⟨‹_›, rfl⟩

/-! ## Decoding inverts encoding -/

theorem cmdWord_two_eq_foldWord (b : Byte) : cmdWord 0x2 b = foldWord b :=
  BitVec.eq_of_toNat_eq ((cmdWord_toNat 0x2 b).trans (foldWord_toNat b).symm)

/-- Every instruction is decoded from its encoding: CSUM_FOLD with every operand, the others by their one word. -/
theorem decode_encode (i : Instr) : decode (encode i) = .ok i := by
  cases i
  case csumFold b =>
    show decodeCmd (cmdWord 0x2 b) = .ok (.csumFold b)
    rw [cmdWord_two_eq_foldWord, decodeCmd_foldWord]
  all_goals rfl

/-- A command word decodes only to the command that it encodes (30_encoding.md R95, R96). -/
theorem encode_of_decodeCmd {v : Word} {i : Instr} (h : decodeCmd v = .ok i) : encode i = .cmd v := by
  unfold decodeCmd at h
  split at h
  · cases h
  · rename_i hr
    have hr : cmdRsv v = 0 := not_not.mp hr
    split at h
    case h_2 hc =>
      cases h
      exact congrArg InstrWord.cmd (cmdWord_eq_of_fields hr hc rfl)
    case h_7 => cases h
    all_goals
      rename_i hc
      obtain ⟨hb, rfl⟩ := withoutOperand_eq_ok h
      exact congrArg InstrWord.cmd (cmdWord_eq_of_fields hr hc hb)

/-- Every row of the table of link bytes encodes to its byte (30_encoding.md R80, R88). -/
theorem encode_of_mem_linkRows : ∀ row ∈ linkRows, encode row.1 = .link row.2 := by decide

/-- A word decodes only to the instruction that it encodes. -/
theorem encode_of_decode {w : InstrWord} {i : Instr} (h : decode w = .ok i) : encode i = w := by
  cases w with
  | cmd v => exact encode_of_decodeCmd h
  | link b => exact encode_of_mem_linkRows _ (decodeLink_mem_linkRows h)

theorem instr_wf (i : Instr) : i.wf = true := by cases i <;> rfl

/-- Settles O1: the word of every instruction decodes to it, and no other word does. -/
theorem decodeInvertsEncode : Obligations.DecodeInvertsEncode := by
  intro w i
  constructor
  · exact fun h => ⟨instr_wf i, encode_of_decode h⟩
  · rintro ⟨_, rfl⟩
    exact decode_encode i

/-- Settles O3: each word by evaluation of the decoder. -/
theorem writtenOutWordsDecode : Obligations.WrittenOutWordsDecode :=
  ⟨rfl, rfl, rfl, rfl, rfl, rfl, rfl, rfl, rfl⟩

end Sys2Proof.Machine
end

section
/-! PROOFS that every step keeps the invariant of the machine, that State.reset meets it, and that from it no step stops
(10_state.md): the invariant in three parts, of which most operations touch one, and its middle part phase by phase. -/

namespace Sys2Proof.Machine

/-! ## The invariant in three parts -/

/-- What the invariant says of the registers whatever the phase (10_state.md R32, 20_memory.md R64, 00_scope.md R10). -/
def RegistersSound (s : State) : Prop := s.addrLen.toNat ≤ 16 ∧ Memory.wf s.payload ∧ s.cfg.wf = true

/-- What the invariant says of IDX, OPK, HDR_VALID, PL_LEN and the reports, by the phase (10_state.md R24, R31, R36). -/
def PhaseSound (s : State) : Prop := idxInFrame s ∧ commandOfPhase s ∧ payloadProgress s ∧ reportsCleared s

/-- The errors that a state with the parameters p may hold (42_header_encoder.md R167, 60_exceptions.md R252). -/
def errAllowed (p : Params) (e : ErrCode) : Prop :=
  e ≠ .sizeOverflow ∧ (e = .badResponseFrame → p.strictResponse = true)

/-- What the invariant says of DONE and ERR (10_state.md R27, R28). -/
def ResultSound (s : State) : Prop :=
  (busy s = true → s.done = false ∧ s.err = .none) ∧
  (s.done = false → busy s = false → s.phase = .idle ∧ s.err = .none) ∧ errAllowed s.cfg s.err

/-- All that the invariant says of a state. -/
def invParts (s : State) : Prop := RegistersSound s ∧ PhaseSound s ∧ ResultSound s

theorem inv_iff {s : State} : Inv s ↔ invParts s := by
  constructor
  · exact fun h => ⟨⟨h.addrLen, h.payloadWf, h.cfgWf⟩, ⟨h.idxFrame, h.command, h.progress, h.cleared⟩,
      ⟨h.busyNotDone, h.notDone, h.noSizeOverflow, h.strictOnly⟩⟩
  · rintro ⟨⟨haddr, hpayload, hcfg⟩, ⟨hidx, hcommand, hprogress, hcleared⟩, ⟨hrunning, hnotDone, hoverflow, hstrict⟩⟩
    exact ⟨hidx, haddr, hpayload, hrunning, hnotDone, hcommand, hprogress, hcleared, hcfg, hoverflow, hstrict⟩

/-- A change of fields of which the invariant says nothing: `rfl` is then the proof that the parts are the same. -/
theorem inv_of_invParts_eq {s t : State} (h : Inv s) (hsame : invParts t = invParts s) : Inv t :=
  inv_iff.mpr (hsame.mpr (inv_iff.mp h))

theorem errAllowed_none (p : Params) : errAllowed p .none := ⟨nofun, nofun⟩

/-- Every error but the two that the invariant speaks of. -/
theorem errAllowed_of_ne {e : ErrCode} (p : Params) (hover : e ≠ .sizeOverflow) (hbad : e ≠ .badResponseFrame) :
    errAllowed p e := ⟨hover, fun h => absurd h hbad⟩

theorem errAllowed_of_encodeHeader {op : Nibble} {s : State} {e : ErrCode} (h : encodeHeader op s = .error e)
    (p : Params) : errAllowed p e := by
  rcases encodeHeader_error h with rfl | rfl <;> exact errAllowed_of_ne p nofun nofun

/-- While a link command runs, DONE = 0 and ERR = NONE are all there is to say of the result. -/
theorem resultSound_of_running {s : State} (hb : busy s = true) (hd : s.done = false) (he : s.err = .none) :
    ResultSound s := by
  refine ⟨fun _ => ⟨hd, he⟩, fun _ hidle => ?_, he ▸ errAllowed_none s.cfg⟩
  exact absurd (hb.symm.trans hidle) nofun

/-- Once a command has finished, any result with an allowed error. -/
theorem resultSound_of_finished {s : State} (hb : busy s = false) (hd : s.done = true) (he : errAllowed s.cfg s.err) :
    ResultSound s :=
  ⟨fun hrun => absurd (hb.symm.trans hrun) nofun, fun hnot => absurd (hd.symm.trans hnot) nofun, he⟩

/-! ## The phases -/

/-- The response reports hold their cleared values (44_response_parser.md R200). -/
def reportsZero (s : State) : Prop :=
  s.respStx = 0x00 ∧ s.respEtx = 0x00 ∧ s.respCk = 0x00 ∧ s.rcsum = 0x00 ∧ s.stxOk = false ∧ s.etxOk = false ∧
    s.csumOk = false

/-- The header of a READ_VALUE is built (10_state.md R24). -/
def readsWithHeader (s : State) : Prop := s.opk = .readValue ∧ s.hdrValid = true

section
variable {s : State}

/-- During the enquiry and its reply. -/
theorem phaseSound_iff_of_enquiry (hp : s.phase = .enqTx ∨ s.phase = .enqRx) :
    PhaseSound s ↔ s.idx.toNat ≤ 2 ∧ (s.opk = .readValue → s.plLen = 0 ∧ reportsZero s) := by
  rcases hp with hp | hp <;>
    simp [PhaseSound, idxInFrame, commandOfPhase, payloadProgress, reportsCleared, reportsZero, hp, imp_and]

/-- While the header is sent. -/
theorem phaseSound_iff_of_hdrTx (hp : s.phase = .hdrTx) :
    PhaseSound s ↔ s.idx.toNat ≤ 16 ∧ readsWithHeader s ∧ s.plLen = 0 ∧ reportsZero s := by
  simp [PhaseSound, idxInFrame, commandOfPhase, payloadProgress, reportsCleared, reportsZero, readsWithHeader, hp]

/-- Before the reply to the header. -/
theorem phaseSound_iff_of_ackRx (hp : s.phase = .ackRx) :
    PhaseSound s ↔ s.idx.toNat = 0 ∧ readsWithHeader s ∧ s.plLen = 0 ∧ reportsZero s := by
  simp [PhaseSound, idxInFrame, commandOfPhase, payloadProgress, reportsCleared, reportsZero, readsWithHeader, hp]

/-- While the response is read. -/
theorem phaseSound_iff_of_respRx (hp : s.phase = .respRx) :
    PhaseSound s ↔ s.idx.toNat ≤ s.size.toNat + 2 ∧ readsWithHeader s ∧
      s.plLen.toNat = min (s.idx.toNat - 1) s.size.toNat := by
  simp [PhaseSound, idxInFrame, commandOfPhase, payloadProgress, reportsCleared, readsWithHeader, hp]

/-- From the response to the end of the transaction. -/
theorem phaseSound_iff_of_closing (hp : s.phase ∈ [.ackTx, .eotRx, .eotTx]) :
    PhaseSound s ↔ s.idx.toNat = 0 ∧ readsWithHeader s ∧ s.plLen = s.size := by
  simp only [List.mem_cons, List.not_mem_nil, or_false] at hp
  rcases hp with hp | hp | hp <;>
    simp [PhaseSound, idxInFrame, commandOfPhase, payloadProgress, reportsCleared, readsWithHeader, hp]

/-- While no link command runs. -/
theorem phaseSound_iff_of_not_busy (hb : busy s = false) :
    PhaseSound s ↔ s.idx.toNat ≤ 65537 ∧ (s.phase = .link → s.opk = .testConnection) ∧
      (s.phase = .closed → s.opk = .readValue) := by
  rw [busy] at hb
  cases hp : s.phase <;> rw [hp] at hb
  case idle | link | closed =>
    simp [PhaseSound, idxInFrame, commandOfPhase, payloadProgress, reportsCleared, hp]
  all_goals cases hb

/-- No frame is longer than the response of 65535 data bytes (10_state.md R31). -/
theorem idx_le_of_phaseSound (h : PhaseSound s) : s.idx.toNat ≤ 65537 := by
  have hsize := s.size.isLt
  obtain ⟨hidx, _⟩ := h
  unfold idxInFrame at hidx
  split at hidx <;> omega

theorem idx_succ_le {n : Nat} (h : s.idx.toNat < n) : (s.idx + 1).toNat ≤ n := by
  rw [BitVec.toNat_add]
  exact (Nat.mod_le _ _).trans h

end

/-! ## The two ways in which an operation ends -/

/-- A link command that goes on: DONE and ERR are as before. -/
theorem inv_of_goesOn {s t : State} (h : Inv s) (hb : busy s = true) (hreg : RegistersSound t) (hphase : PhaseSound t)
    (hbt : busy t = true) (hd : t.done = s.done) (he : t.err = s.err) : Inv t := by
  obtain ⟨hdone, hnone⟩ := h.busyNotDone hb
  exact inv_iff.mpr ⟨hreg, hphase, resultSound_of_running hbt (hd.trans hdone) (he.trans hnone)⟩

/-- A command that finishes. -/
theorem inv_of_finished {t : State} (hreg : RegistersSound t) (hphase : PhaseSound t) (hb : busy t = false)
    (hd : t.done = true) (he : errAllowed t.cfg t.err) : Inv t :=
  inv_iff.mpr ⟨hreg, hphase, resultSound_of_finished hb hd he⟩

/-- The abort of a link command, at any IDX that a frame has (60_exceptions.md R253). -/
theorem inv_raise_of_busy {s : State} {e : ErrCode} (hreg : RegistersSound s) (hidx : s.idx.toNat ≤ 65537)
    (hb : busy s = true) (he : errAllowed s.cfg e) : Inv (raise e s) := by
  rw [raise_of_busy hb]
  exact inv_of_finished hreg (Iff.mpr (phaseSound_iff_of_not_busy rfl) ⟨hidx, nofun, nofun⟩) rfl rfl he

section
variable {s : State}

/-- An abort that leaves everything else as the invariant has it. -/
theorem inv_raise {e : ErrCode} (h : Inv s) (hb : busy s = true) (he : errAllowed s.cfg e) : Inv (raise e s) := by
  obtain ⟨hreg, hphase, _⟩ := inv_iff.mp h
  exact inv_raise_of_busy hreg (idx_le_of_phaseSound hphase) hb he

/-! ## Host accesses -/

theorem inv_setEvents (h : Inv s) (es : List Event) : Inv { s with events := es } := inv_of_invParts_eq h rfl

theorem inv_refuseWrite (h : Inv s) : Inv (refuseWrite s) := inv_of_invParts_eq h rfl

/-- A host write changes a register only while no link command runs, when the phase asks nothing of SIZE. -/
theorem inv_regWrite (h : Inv s) (i : Byte) (v : Word) : Inv (regWrite i v s) := by
  obtain ⟨⟨haddr, hpayload, hcfg⟩, hphase, hresult⟩ := inv_iff.mp h
  rcases regWrite_cases i v s with hw | ⟨hb, ⟨_, hw⟩ | ⟨_, hv, hw⟩ | ⟨_, hw⟩ | ⟨_, _, _, hw⟩⟩ <;> rw [hw]
  · exact inv_refuseWrite h
  · have hidle := (phaseSound_iff_of_not_busy hb).mp hphase
    exact inv_iff.mpr ⟨⟨haddr, hpayload, hcfg⟩, Iff.mpr (phaseSound_iff_of_not_busy hb) hidle, hresult⟩
  · have hlen : (v.setWidth 5).toNat ≤ 16 := by
      rw [BitVec.toNat_setWidth]
      exact (Nat.mod_le _ _).trans hv
    exact inv_iff.mpr ⟨⟨hlen, hpayload, hcfg⟩, hphase, hresult⟩
  · exact inv_iff.mpr ⟨⟨haddr, hpayload, hcfg⟩, hphase, hresult⟩
  · exact inv_iff.mpr ⟨⟨haddr, hpayload, hcfg⟩, hphase, hresult⟩

/-! ## Commands -/

/-- A header command finishes with a header or with an error of the encoder, in the phase in which it was accepted. -/
theorem inv_hdrBuild (op : Nibble) (hreg : RegistersSound s) (hphase : PhaseSound s) (hb : busy s = false)
    (he : s.err = .none) : Inv (hdrBuild op s) := by
  have hidle := (phaseSound_iff_of_not_busy hb).mp hphase
  rcases hdrBuild_cases op s with ⟨e, henc, hbuild⟩ | ⟨hd, _, hbuild⟩ <;> rw [hbuild]
  · have hb' : busy { s with hdrValid := false } = false := hb
    rw [raise_of_idle hb']
    exact inv_of_finished hreg (Iff.mpr (phaseSound_iff_of_not_busy hb) hidle) hb rfl
      (errAllowed_of_encodeHeader henc _)
  · exact inv_of_finished hreg (Iff.mpr (phaseSound_iff_of_not_busy hb) hidle) hb rfl (he ▸ errAllowed_none s.cfg)

/-- A link command starts at the first byte of the enquiry, a READ_VALUE with PL_LEN and the reports cleared
(41_handshake.md R142, 45_read_transaction.md R220). -/
theorem inv_startHandshake {k : LinkCommand} (hreg : RegistersSound s) (hd : s.done = false) (he : s.err = .none)
    (hk : k = .readValue → s.plLen = 0 ∧ reportsZero s) : Inv (startHandshake k s) :=
  inv_iff.mpr ⟨hreg, Iff.mpr (phaseSound_iff_of_enquiry (.inl rfl)) ⟨Nat.zero_le _, hk⟩,
    resultSound_of_running rfl hd he⟩

/-- An accepted command. -/
theorem inv_commandBody_accept {i : Instr} (hi : isCommand i = true) (h : Inv s) (hb : busy s = false) :
    Inv (commandBody i (accept s)) := by
  obtain ⟨hreg, hphase, _⟩ := inv_iff.mp h
  cases i
  case csumClear | csumFold => exact inv_of_finished hreg hphase hb rfl (errAllowed_none s.cfg)
  case hdrBuildRd | hdrBuildWr => exact inv_hdrBuild (s := accept s) _ hreg hphase hb rfl
  case testConnection => exact inv_startHandshake (s := accept s) hreg rfl rfl nofun
  case readValue =>
    exact inv_startHandshake (s := clearResponse (accept s)) hreg rfl rfl
      (fun _ => ⟨rfl, rfl, rfl, rfl, rfl, rfl, rfl, rfl⟩)
  all_goals cases hi

theorem inv_of_exec_command {i : Instr} {t : State} (hi : isCommand i = true) (h : Inv s) (hx : exec i s = .next t) :
    Inv t := by
  rw [exec_eq_command hi] at hx
  rcases command_cases hx with ⟨_, ht⟩ | ⟨hb, ht⟩ <;> cases ht
  · exact inv_refuseWrite h
  · exact inv_commandBody_accept hi h hb

/-! ## Bytes sent -/

theorem inv_txAdvance (h : Inv s) : Inv (txAdvance s) := by
  obtain ⟨hreg, hphase, _⟩ := inv_iff.mp h
  have goesOn {t : State} (hb : busy s = true) := inv_of_goesOn (t := t) h hb
  unfold txAdvance
  split
  case h_1 hp =>
    have hb : busy s = true := busy_of_phase hp rfl
    obtain ⟨_, hread⟩ := (phaseSound_iff_of_enquiry (.inl hp)).mp hphase
    split
    · rename_i hi
      exact goesOn hb hreg (Iff.mpr (phaseSound_iff_of_enquiry (.inl hp)) ⟨idx_succ_le hi, hread⟩) hb rfl rfl
    · exact goesOn hb hreg (Iff.mpr (phaseSound_iff_of_enquiry (.inr rfl)) ⟨Nat.zero_le _, hread⟩) rfl rfl rfl
  case h_2 hp =>
    have hb : busy s = true := busy_of_phase hp rfl
    obtain ⟨_, hread⟩ := (phaseSound_iff_of_hdrTx hp).mp hphase
    split
    · rename_i hi
      exact goesOn hb hreg (Iff.mpr (phaseSound_iff_of_hdrTx hp) ⟨idx_succ_le hi, hread⟩) hb rfl rfl
    · exact goesOn hb hreg (Iff.mpr (phaseSound_iff_of_ackRx rfl) ⟨rfl, hread⟩) rfl rfl rfl
  case h_3 hp =>
    have hclosing := (phaseSound_iff_of_closing (by simp [hp])).mp hphase
    exact goesOn (busy_of_phase hp rfl) hreg (Iff.mpr (phaseSound_iff_of_closing (by simp)) hclosing) rfl rfl rfl
  case h_4 hp =>
    obtain ⟨_, ⟨hopk, _⟩, _⟩ := (phaseSound_iff_of_closing (by simp [hp])).mp hphase
    obtain ⟨_, hnone⟩ := h.busyNotDone (busy_of_phase hp rfl)
    have hidx := idx_le_of_phaseSound hphase
    exact inv_of_finished hreg
      (Iff.mpr (phaseSound_iff_of_not_busy rfl) ⟨hidx, nofun, fun _ => hopk⟩) rfl rfl
      (hnone ▸ errAllowed_none s.cfg)
  all_goals exact h

theorem inv_txAccept (h : Inv s) (b : Byte) : Inv (txAccept b s) := inv_of_invParts_eq (inv_txAdvance h) rfl

/-! ## Bytes received -/

/-- The third reply byte: a rejection, the end of a TEST_CONNECTION, an address error, or the header to send. -/
theorem inv_handshakeComplete (h : Inv s) (hp : s.phase = .enqRx) : Inv (handshakeComplete s) := by
  have hb : busy s = true := busy_of_phase hp rfl
  obtain ⟨hreg, hphase, _⟩ := inv_iff.mp h
  rcases handshakeComplete_cases s with ⟨_, hc⟩ | ⟨_, hk, hc⟩ | ⟨_, hk, ⟨e, henc, hc⟩ | ⟨hd, _, hc⟩⟩ <;> rw [hc]
  · exact inv_raise h hb (errAllowed_of_ne _ nofun nofun)
  · obtain ⟨_, hnone⟩ := h.busyNotDone hb
    have hidx := idx_le_of_phaseSound hphase
    exact inv_of_finished hreg
      (Iff.mpr (phaseSound_iff_of_not_busy rfl) ⟨hidx, fun _ => hk, nofun⟩) rfl rfl
      (hnone ▸ errAllowed_none s.cfg)
  · exact inv_raise h hb (errAllowed_of_encodeHeader henc _)
  · obtain ⟨_, hread⟩ := (phaseSound_iff_of_enquiry (.inr hp)).mp hphase
    exact inv_of_goesOn h hb hreg (Iff.mpr (phaseSound_iff_of_hdrTx rfl) ⟨Nat.zero_le _, ⟨hk, rfl⟩, hread hk⟩)
      rfl rfl rfl

theorem inv_rxAck (h : Inv s) (hp : s.phase = .ackRx) (b : Byte) : Inv (rxAck b s) := by
  have hb : busy s = true := busy_of_phase hp rfl
  obtain ⟨hreg, hphase, _⟩ := inv_iff.mp h
  unfold rxAck
  split
  · obtain ⟨_, hread, hlen, _⟩ := (phaseSound_iff_of_ackRx hp).mp hphase
    refine inv_of_goesOn h hb hreg (Iff.mpr (phaseSound_iff_of_respRx rfl) ⟨Nat.zero_le _, hread, ?_⟩) rfl rfl rfl
    show s.plLen.toNat = _
    simp [hlen]
  · exact inv_raise h hb (errAllowed_of_ne _ nofun nofun)

/-- The STX byte: no data received before it, and none by it (44_response_parser.md R202). -/
theorem inv_respStxByte (h : Inv s) (hp : s.phase = .respRx) (hi : s.idx.toNat = 0) (b : Byte) :
    Inv { s with respStx := b, idx := 1 } := by
  obtain ⟨hreg, hphase, _⟩ := inv_iff.mp h
  obtain ⟨_, hread, hlen⟩ := (phaseSound_iff_of_respRx hp).mp hphase
  refine inv_of_goesOn h (busy_of_phase hp rfl) hreg (Iff.mpr (phaseSound_iff_of_respRx hp) ⟨?_, hread, ?_⟩)
    (busy_of_phase hp rfl) rfl rfl
  · exact Nat.le_add_left 1 (s.size.toNat + 1)
  · simpa [hi] using hlen

/-- A data byte: IDX and PL_LEN both go on by one, inside PAYLOAD (44_response_parser.md R203). -/
theorem inv_respData (h : Inv s) (hp : s.phase = .respRx) (h1 : 1 ≤ s.idx.toNat) (hi : s.idx.toNat ≤ s.size.toNat)
    (b : Byte) : Inv (respData b s) := by
  have hsize := s.size.isLt
  obtain ⟨⟨haddr, hpayload, hcfg⟩, hphase, _⟩ := inv_iff.mp h
  obtain ⟨_, hread, _⟩ := (phaseSound_iff_of_respRx hp).mp hphase
  have hwritten : Memory.wf (respData b s).payload := Memory.write_wf b hpayload (by omega)
  have hidx : (respData b s).idx.toNat = s.idx.toNat + 1 := idx_succ_toNat (by omega)
  have hlen : (respData b s).plLen.toNat = s.idx.toNat := by
    rw [respData_plLen, BitVec.toNat_setWidth]
    omega
  refine inv_of_goesOn h (busy_of_phase hp rfl) ⟨haddr, hwritten, hcfg⟩
    (Iff.mpr (phaseSound_iff_of_respRx hp) ⟨?_, hread, ?_⟩) (busy_of_phase hp rfl) rfl rfl
  · rw [hidx, respData_size]
    omega
  · rw [hidx, hlen, respData_size]
    omega

/-- The ETX byte: all the data is received, and IDX goes on to the checksum (44_response_parser.md R204). -/
theorem inv_respEtxByte (h : Inv s) (hp : s.phase = .respRx) (hi : s.idx.toNat = s.size.toNat + 1) (b : Byte) :
    Inv (respEtxByte b s) := by
  obtain ⟨hreg, hphase, _⟩ := inv_iff.mp h
  obtain ⟨_, hread, hlen⟩ := (phaseSound_iff_of_respRx hp).mp hphase
  have hidx : (respEtxByte b s).idx.toNat = s.idx.toNat + 1 := idx_succ_toNat (by omega)
  refine inv_of_goesOn h (busy_of_phase hp rfl) hreg (Iff.mpr (phaseSound_iff_of_respRx hp) ⟨?_, hread, ?_⟩)
    (busy_of_phase hp rfl) rfl rfl
  · rw [hidx, respEtxByte_size]
    omega
  · rw [hidx, respEtxByte_size, respEtxByte_plLen, hlen]
    omega

/-- The checksum byte: PL_LEN has reached SIZE, or the frame is rejected, in strict mode only (44_response_parser.md
R205, R208). -/
theorem inv_respLast (h : Inv s) (hp : s.phase = .respRx) (hi : s.idx.toNat = s.size.toNat + 2) (b : Byte) :
    Inv (respLast b s) := by
  have hb : busy s = true := busy_of_phase hp rfl
  obtain ⟨hreg, hphase, _⟩ := inv_iff.mp h
  rcases respLast_cases b s with ⟨hstrict, _, hl⟩ | ⟨_, hl⟩ <;> rw [hl]
  · have hidx := idx_le_of_phaseSound hphase
    exact inv_raise_of_busy (s := respChecks b s) hreg hidx hb ⟨nofun, fun _ => hstrict⟩
  · obtain ⟨_, hread, hlen⟩ := (phaseSound_iff_of_respRx hp).mp hphase
    have hall : s.plLen = s.size := BitVec.eq_of_toNat_eq (by omega)
    exact inv_of_goesOn h hb hreg (Iff.mpr (phaseSound_iff_of_closing (by simp)) ⟨rfl, hread, hall⟩) rfl rfl rfl

theorem inv_rxEot (h : Inv s) (hp : s.phase = .eotRx) (b : Byte) : Inv (rxEot b s) := by
  have hb : busy s = true := busy_of_phase hp rfl
  obtain ⟨hreg, hphase, _⟩ := inv_iff.mp h
  unfold rxEot
  split
  · have hclosing := (phaseSound_iff_of_closing (by simp [hp])).mp hphase
    exact inv_of_goesOn h hb hreg (Iff.mpr (phaseSound_iff_of_closing (by simp)) hclosing) rfl rfl rfl
  · exact inv_raise h hb (errAllowed_of_ne _ nofun nofun)

/-- One of the first two reply bytes. -/
theorem inv_enqRx_of_lt_two (h : Inv s) (hp : s.phase = .enqRx) (hi : s.idx.toNat < 2) (echo : Vector Byte 3) :
    Inv { s with echo := echo, idx := s.idx + 1 } := by
  obtain ⟨hreg, hphase, _⟩ := inv_iff.mp h
  obtain ⟨_, hread⟩ := (phaseSound_iff_of_enquiry (.inr hp)).mp hphase
  exact inv_of_goesOn h (busy_of_phase hp rfl) hreg
    (Iff.mpr (phaseSound_iff_of_enquiry (.inr hp)) ⟨idx_succ_le hi, hread⟩) (busy_of_phase hp rfl) rfl rfl

/-- Every byte received keeps the invariant. -/
theorem inv_of_rxByte {b : Byte} {t : State} (h : Inv s) (hx : rxByte b s = .next t) : Inv t := by
  rcases rxByte_next_cases hx with ⟨_, rfl⟩ | ⟨hp, hlt, ⟨hi, rfl⟩ | ⟨_, rfl⟩⟩ | ⟨hp, rfl⟩ |
    ⟨hp, ⟨hi, rfl⟩ | ⟨h1, hi, rfl⟩ | ⟨hi, rfl⟩ | ⟨hi, rfl⟩⟩ | ⟨hp, rfl⟩
  · exact h
  · exact inv_enqRx_of_lt_two h hp hi _
  · have hecho : Inv { s with echo := s.echo.set s.idx.toNat b hlt } := inv_of_invParts_eq h rfl
    exact inv_handshakeComplete hecho hp
  · exact inv_rxAck h hp b
  · exact inv_respStxByte h hp hi b
  · exact inv_respData h hp h1 hi b
  · exact inv_respEtxByte h hp hi b
  · exact inv_respLast h hp hi b
  · exact inv_rxEot h hp b

/-! ## The read deadline and RESET -/

theorem inv_rxTimeout (h : Inv s) : Inv (rxTimeout s) := by
  rcases rxTimeout_cases s with ht | ⟨e, he, hb, ht⟩ <;> rw [ht]
  · exact h
  · rw [← raise_of_busy hb]
    rcases he with rfl | rfl <;> exact inv_raise h hb (errAllowed_of_ne _ nofun nofun)

end

/-- Looking a key up after the values are changed. -/
theorem lookup_map_value {α β γ : Type} [BEq α] (f : β → γ) (k : α) (m : List (α × β)) :
    (m.map (fun e => (e.1, f e.2))).lookup k = (m.lookup k).map f := by
  induction m with
  | nil => rfl
  | cons e m ih =>
    rw [List.map_cons, List.lookup_cons, List.lookup_cons, ih]
    cases k == e.1 <;> rfl

/-- Well-formed parameters, as the block holds them (00_scope.md R10). -/
theorem params_wf_iff (c : Params) :
    c.wf = true ↔ c.clientId ≠ 0 ∧ (c.memType.map Prod.fst).Nodup ∧ c.memType.lookup 0x56 = some 1 := by
  simp [Params.wf, keysDistinct, and_assoc]

/-- What a RESET samples from well-formed parameters is well formed (00_scope.md R10). -/
theorem wf_of_sampleParams {p : RawParams} {c : Params} (h : sampleParams p = some c) : c.wf = true := by
  unfold sampleParams at h
  split at h
  · rename_i hwf
    cases h
    obtain ⟨hclient, _, hkeys, hv⟩ := (rawParams_wf_iff p).mp hwf
    refine (params_wf_iff _).mpr ⟨hclient, ?_, ?_⟩
    · rwa [List.map_map]
    · rw [lookup_map_value, hv]
      rfl
  · cases h

/-- Right after a RESET with well-formed parameters. -/
theorem inv_resetWith {c : Params} (hc : c.wf = true) (s : State) : Inv (resetWith c s) := by
  have hreg : RegistersSound (resetWith c s) := ⟨Nat.zero_le _, reset_payload_wf, hc⟩
  have hphase : PhaseSound (resetWith c s) :=
    Iff.mpr (phaseSound_iff_of_not_busy rfl) ⟨Nat.zero_le _, nofun, nofun⟩
  exact inv_iff.mpr ⟨hreg, hphase, nofun, fun _ _ => ⟨rfl, rfl⟩, errAllowed_none c⟩

/-! ## The step -/

/-- Settles O52: what each event's operation does to the three parts of the invariant. -/
theorem stepKeepsMachineInvariant : Obligations.StepKeepsMachineInvariant := by
  intro s t h hstep
  have hes := inv_setEvents h
  rcases step_next_cases hstep with ⟨_, rfl⟩ | ⟨i, v, es, _, rfl⟩ | ⟨v, e, es, _, _, rfl⟩ |
    ⟨v, i, es, _, _, hi, hx⟩ | ⟨i, v, es, _, _, rfl⟩ | ⟨b, es, _, _, rfl⟩ | ⟨es, _, _, _, rfl⟩ |
    ⟨b, bs, es, _, _, _, hx⟩ | ⟨es, _, _, rfl⟩ | ⟨es, _, rfl⟩ | ⟨p, c, es, _, hc, rfl⟩
  · exact h
  · exact inv_of_invParts_eq h rfl
  · exact inv_refuseWrite (hes es)
  · exact inv_of_exec_command hi (hes es) hx
  · exact inv_regWrite (hes es) i v
  · exact inv_txAccept (hes es) b
  · exact hes es
  · have htaken : Inv { s with events := es, rxStream := bs } := inv_of_invParts_eq h rfl
    exact inv_of_rxByte htaken hx
  · exact hes es
  · exact inv_rxTimeout (hes es)
  · exact inv_resetWith (wf_of_sampleParams hc) _

/-- Settles O51: State.reset is a RESET with the default parameters, and holds no response and no header. -/
theorem invariantsHoldAtReset : Obligations.InvariantsHoldAtReset := by
  have hinv : Inv (resetWith Params.defaults State.reset) := inv_resetWith (by decide) State.reset
  exact ⟨hinv, nofun, nofun, nofun⟩

end Sys2Proof.Machine
end

section
/-! PROOFS that from a state with the invariant no step stops, but for a RESET with ill-formed parameters (00_scope.md
R10): every other operation stops only where IDX lies outside its frame. -/

namespace Sys2Proof.Machine

section
variable {s : State}

/-- In a phase that sends, IDX inside the frame means that there is a byte to offer (40_host_interface.md R121). -/
theorem exists_txByte_of_inv (h : Inv s) (hv : txValid s = true) : ∃ b, txByte s = some b := by
  obtain ⟨_, hphase, _⟩ := inv_iff.mp h
  rw [txValid] at hv
  cases hp : s.phase <;> rw [hp] at hv
  case enqTx =>
    obtain ⟨hidx, _⟩ := (phaseSound_iff_of_enquiry (.inl hp)).mp hphase
    rw [txByte_of_enqTx hp]
    exact ⟨_, List.getElem?_eq_getElem (Nat.lt_succ_of_le hidx)⟩
  case hdrTx =>
    obtain ⟨hidx, _⟩ := (phaseSound_iff_of_hdrTx hp).mp hphase
    have hlt : s.idx.toNat < s.hdr.toList.length := by
      rw [Vector.length_toList]
      exact Nat.lt_succ_of_le hidx
    rw [txByte_of_hdrTx hp]
    exact ⟨_, List.getElem?_eq_getElem hlt⟩
  case ackTx => exact ⟨_, txByte_of_ackTx hp⟩
  case eotTx => exact ⟨_, txByte_of_eotTx hp⟩
  all_goals cases hv

/-- With IDX inside the frame every byte received has an effect (40_host_interface.md R133). -/
theorem rxByte_next_of_inv (h : Inv s) (b : Byte) : ∃ t, rxByte b s = .next t := by
  obtain ⟨_, hphase, _⟩ := inv_iff.mp h
  cases hp : s.phase
  case enqRx =>
    obtain ⟨hidx, _⟩ := (phaseSound_iff_of_enquiry (.inr hp)).mp hphase
    rcases Nat.lt_or_eq_of_le hidx with hlt | heq
    · exact ⟨_, rxByte_enqRx_of_lt_two b hp hlt⟩
    · exact ⟨_, rxByte_enqRx_of_eq_two b hp heq⟩
  case respRx =>
    obtain ⟨hidx, _⟩ := (phaseSound_iff_of_respRx hp).mp hphase
    rw [rxByte_of_respRx b hp]
    rcases rxResp_cases b s with ⟨_, hr⟩ | ⟨_, _, hr⟩ | ⟨_, hr⟩ | ⟨_, hr⟩ | ⟨hout, _⟩
    · exact ⟨_, hr⟩
    · exact ⟨_, hr⟩
    · exact ⟨_, hr⟩
    · exact ⟨_, hr⟩
    · omega
  case ackRx => exact ⟨_, rxByte_of_ackRx b hp⟩
  case eotRx => exact ⟨_, rxByte_of_eotRx b hp⟩
  all_goals exact ⟨s, by rw [rxByte, hp]⟩

end

/-- A write to CMD never stops the block, whatever the word (40_host_interface.md R129, R130). -/
theorem runWord_cmd_next (v : Word) (s : State) : ∃ t, runWord (.cmd v) s = .next t := by
  by_cases hrej : busy s = true ∨ illFormedWord v
  · exact ⟨_, runWord_cmd_of_rejected hrej⟩
  · obtain ⟨hb, hv⟩ := not_or.mp hrej
    have hb : busy s = false := by simpa using hb
    cases hd : decodeCmd v with
    | error e => exact absurd ((decodeCmd_isError_iff v).mp ⟨e, hd⟩) hv
    | ok i => exact ⟨_, (runWord_cmd_of_decodeCmd hd s).trans (exec_command_of_idle (decodeCmd_isCommand hd) hb)⟩

/-- Settles O53: each event from a state with the invariant; only RESET can be refused. -/
theorem stepFromInvariantIsSafe : Obligations.StepFromInvariantIsSafe := by
  intro s h
  cases he : s.events with
  | nil => exact .inl ⟨s, step_nil he⟩
  | cons e es =>
    cases e with
    | regRd i => exact .inl ⟨_, step_regRd he⟩
    | regWr i v =>
      by_cases hi : i = 0x00
      · subst hi
        rw [stepIsSafe, step_cmd he]
        exact .inl (runWord_cmd_next v _)
      · exact .inl ⟨_, step_regWr he hi⟩
    | txAcc =>
      by_cases hv : txValid s = true
      · obtain ⟨b, hb⟩ := exists_txByte_of_inv h hv
        exact .inl ⟨_, step_txAcc he hb⟩
      · have hv : txValid s = false := by simpa using hv
        obtain ⟨hdisabled, _⟩ := eventNotEnabledChangesNothing s es
        exact .inl ⟨_, hdisabled he hv⟩
    | rx =>
      by_cases hr : rxReady s = false ∨ s.rxStream = []
      · exact .inl ⟨_, step_rx_idle he hr⟩
      · obtain ⟨hready, hne⟩ := not_or.mp hr
        have hready : rxReady s = true := by simpa using hready
        obtain ⟨b, bs, hb⟩ := List.exists_cons_of_ne_nil hne
        have htaken : Inv (withInput es bs s) := inv_of_invParts_eq h rfl
        rw [stepIsSafe, step_rx he hready hb]
        exact .inl (rxByte_next_of_inv htaken b)
    | rxTimeout => exact .inl ⟨_, step_rxTimeout he⟩
    | reset p =>
      rw [stepIsSafe, step_reset he]
      by_cases hwf : p.wf = true
      · exact .inl ⟨_, resetEvent_of_sampled (sampleParams_of_wf hwf) _⟩
      · exact .inr ⟨p, es, he, by simpa using hwf, resetEvent_of_unsampled (sampleParams_of_not_wf hwf) _⟩

end Sys2Proof.Machine
end

section
/-! PROOFS of the statements about the fold (43_checksum.md R190, R191) and of the run that computes one with CSUM_CLEAR
and CSUM_FOLD (R193). -/

namespace Sys2Proof.Machine

/-! ## The laws of the fold -/

theorem fold_append (s t : List Byte) : fold (s ++ t) = fold s ^^^ fold t := by
  induction t using List.reverseRecOn with
  | nil => simp [fold]
  | append_singleton t b ih =>
    rw [← List.append_assoc, fold_append_singleton, ih, fold_append_singleton, BitVec.xor_assoc]

theorem fold_singleton (b : Byte) : fold [b] = b := BitVec.zero_xor

theorem fold_cons (b : Byte) (bs : List Byte) : fold (b :: bs) = b ^^^ fold bs := by
  rw [← List.singleton_append, fold_append, fold_singleton]

/-- The order of the bytes does not matter. -/
theorem fold_perm {s p : List Byte} (h : s.Perm p) : fold s = fold p := by
  induction h with
  | nil => rfl
  | cons b _ ih => rw [fold_cons, fold_cons, ih]
  | swap b c bs => rw [fold_cons, fold_cons, fold_cons, fold_cons, ← BitVec.xor_assoc, ← BitVec.xor_assoc,
      BitVec.xor_comm c b]
  | trans _ _ ihs ihp => rw [ihs, ihp]

/-- A sequence with its fold behind it folds to 0. -/
theorem fold_append_fold (s : List Byte) : fold (s ++ [fold s]) = 0x00 := by
  rw [fold_append_singleton, BitVec.xor_self]
  rfl

/-- Bit j of the fold tells whether the number of bytes with bit j set is odd. -/
theorem fold_getLsbD (s : List Byte) (j : Nat) :
    (fold s).getLsbD j = decide (s.countP (fun b => b.getLsbD j) % 2 = 1) := by
  induction s with
  | nil => simp [fold]
  | cons b s ih =>
    rw [fold_cons, BitVec.getLsbD_xor, ih, List.countP_cons]
    cases b.getLsbD j
    · simp
    · rw [if_pos rfl, Bool.true_xor, ← decide_not]
      exact decide_eq_decide.mpr (by omega)

/-- Settles O18: all laws from the fold of a concatenation. -/
theorem foldLaws : Obligations.FoldLaws := by
  refine ⟨rfl, fold_singleton, fold_append, fun _ _ => fold_perm, fun s => ?_, fold_append_fold,
    fun s j _ => fold_getLsbD s j⟩
  rw [fold_append, BitVec.xor_self]
  rfl

/-! ## A fold computed by commands -/

/-- A command word taken from CMD while BUSY = 0 runs its command's body (40_host_interface.md R129). -/
theorem step_of_accepted {s : State} {v : Word} {i : Instr} {es : List Event} (he : s.events = .regWr 0x00 v :: es)
    (hd : decodeCmd v = .ok i) (hb : busy s = false) :
    step s = .next (commandBody i (accept { s with events := es })) := by
  have hb' : busy { s with events := es } = false := hb
  rw [step_cmd he, runWord_cmd_of_decodeCmd hd, exec_command_of_idle (decodeCmd_isCommand hd) hb']

/-- An accepted CSUM_CLEAR (43_checksum.md R192). -/
theorem step_csumClear {s : State} {es : List Event} (hb : busy s = false) (he : s.events = .regWr 0x00 0x0001 :: es) :
    step s = .next { s with csum := 0x00, done := true, err := .none, hostErr := false, events := es } :=
  step_of_accepted he rfl hb

/-- An accepted CSUM_FOLD (43_checksum.md R193). -/
theorem step_csumFold {s : State} {b : Byte} {es : List Event} (hb : busy s = false)
    (he : s.events = .regWr 0x00 (foldWord b) :: es) :
    step s =
      .next { s with csum := s.csum ^^^ b, done := true, err := .none, hostErr := false, events := es } :=
  step_of_accepted he (decodeCmd_foldWord b) hb

/-- After a command that left no error, a CSUM_FOLD of each byte folds them all into CSUM. -/
theorem runsTo_csumFolds {s : State} {bs : List Byte} {es : List Event} (hb : busy s = false)
    (he : s.events = bs.map (fun b => Event.regWr 0x00 (foldWord b)) ++ es) (hd : s.done = true) (hn : s.err = .none)
    (hh : s.hostErr = false) : runsTo bs.length s { s with csum := s.csum ^^^ fold bs, events := es } := by
  induction bs generalizing s with
  | nil =>
    obtain rfl : s.events = es := he
    have hcsum : s.csum ^^^ fold [] = s.csum := BitVec.xor_zero
    rw [hcsum]
    rfl
  | cons b bs ih =>
    have hfirst := step_csumFold hb he
    have hrest := runsTo_succ hfirst (ih hb rfl rfl rfl rfl)
    rw [fold_cons, ← BitVec.xor_assoc, List.length_cons, hd, hn, hh]
    exact hrest

/-- Settles O21: CSUM_CLEAR, and then the folds by induction on the bytes. -/
theorem clearThenFoldsLeaveFold : Obligations.ClearThenFoldsLeaveFold := by
  intro s bs es hb he
  have hrun := runsTo_succ (step_csumClear hb he) (runsTo_csumFolds hb rfl rfl rfl rfl)
  have hzero : 0x00 ^^^ fold bs = fold bs := BitVec.zero_xor
  rw [hzero] at hrun
  exact hrun

end Sys2Proof.Machine
end

section
/-! PROOFS of the statements about the headers the encoder produces (42_header_encoder.md R173): their shape, that a
valid HDR keeps it over every step, and that the size check never fires. -/

namespace Sys2Proof.Machine

/-! ## The shape of a header -/

/-- A digit is an uppercase hexadecimal digit (30_encoding.md R83). -/
theorem isHexDigit_hexchar (n : Nibble) : isHexDigit (hexchar n) = true := by
  have hn := n.isLt
  simp only [isHexDigit, Bool.or_eq_true, Bool.and_eq_true, decide_eq_true_eq]
  rw [hexchar_toNat]
  split <;> omega

/-- Every header that is built has the shape of R173, whatever its fields. -/
theorem headerShape_buildHeader (client op mc : Nibble) (a16 : Word) (blk last : Nat) :
    HeaderShape (buildHeader client op mc a16 blk last).toList := by
  have hzero : isHexDigit 0x30#8 = true := by decide
  rw [buildHeader_toList, headerSpan_eq]
  exact {
    length := rfl
    soh := rfl
    etb := rfl
    body := by simp [isHexDigit_hexchar, hzero]
    client := rfl
    master0 := rfl
    master1 := rfl
    checksum := rfl
    selfInverse := fold_append_fold _ }

/-- What the encoder answers is a built header with the op it was asked for. -/
theorem encodeHeader_eq_ok {op : Nibble} {s : State} {h : Vector Byte 17} (henc : encodeHeader op s = .ok h) :
    ∃ mc a16 blk last, h = buildHeader s.cfg.clientId op mc a16 blk last := by
  unfold encodeHeader at henc
  split at henc
  · cases henc
  · split at henc
    · cases henc
    · split at henc
      · cases henc
      · cases henc
        exact ⟨_, _, _, _, rfl⟩

/-- Settles O24: the encoder's headers are built ones. -/
theorem encodedHeaderHasShape : Obligations.EncodedHeaderHasShape := by
  intro s op h henc
  obtain ⟨mc, a16, blk, last, rfl⟩ := encodeHeader_eq_ok henc
  exact headerShape_buildHeader _ _ _ _ _ _

/-- The op code byte of a read header is '0' (30_encoding.md R87, R88). -/
theorem opCode_of_encodeHeader_read {s : State} {h : Vector Byte 17} (henc : encodeHeader 0x0 s = .ok h) :
    h[3] = 0x30 := by
  obtain ⟨mc, a16, blk, last, rfl⟩ := encodeHeader_eq_ok henc
  have hbyte : (buildHeader s.cfg.clientId 0x0 mc a16 blk last).toList[3]? = some 0x30 := by
    rw [buildHeader_toList, headerSpan_eq]
    rfl
  rw [Vector.getElem?_toList] at hbyte
  exact (Vector.getElem?_eq_some_iff.mp hbyte).2

/-! ## A valid header over every step -/

/-- t marks no header valid that s does not, holds the same one, and does not start to send it. -/
def keepsHeader (s t : State) : Prop :=
  t.hdr = s.hdr ∧ (t.hdrValid = true → s.hdrValid = true) ∧ (t.phase = .hdrTx → s.phase = .hdrTx)

section
variable {s t : State}

theorem headerWhenValid_of_keepsHeader (h : HeaderWhenValid s) (hk : keepsHeader s t) : HeaderWhenValid t := by
  obtain ⟨hshape, hread⟩ := h
  obtain ⟨hhdr, hvalid, hphase⟩ := hk
  constructor
  · intro hv
    rw [hhdr]
    exact hshape (hvalid hv)
  · intro hp
    simp only [hhdr]
    exact hread (hphase hp)

/-- An abort never leads to the sending of a header. -/
theorem keepsHeader_raise (e : ErrCode) (s : State) : keepsHeader s (raise e s) := by
  refine ⟨rfl, id, fun hp => ?_⟩
  rw [raise_phase] at hp
  split at hp
  · cases hp
  · exact hp

/-- A built header has the shape, and only the handshake of a READ_VALUE goes on to send one. -/
theorem headerWhenValid_of_encodeHeader {op : Nibble} {hd : Vector Byte 17} (henc : encodeHeader op s = .ok hd)
    (hhdr : t.hdr = hd) (hread : t.phase = .hdrTx → op = 0x0) : HeaderWhenValid t := by
  constructor
  · intro _
    rw [hhdr]
    exact encodedHeaderHasShape s op hd henc
  · intro hp
    obtain rfl := hread hp
    simp only [hhdr]
    exact opCode_of_encodeHeader_read henc

/-- A header command runs while no header is being sent. -/
theorem headerWhenValid_hdrBuild (op : Nibble) (h : HeaderWhenValid s) (hb : busy s = false) :
    HeaderWhenValid (hdrBuild op s) := by
  have hb' : busy { s with hdrValid := false } = false := hb
  rcases hdrBuild_cases op s with ⟨e, _, hbuild⟩ | ⟨hd, henc, hbuild⟩ <;> rw [hbuild]
  · rw [raise_of_idle hb']
    exact headerWhenValid_of_keepsHeader h ⟨rfl, nofun, id⟩
  · refine headerWhenValid_of_encodeHeader henc rfl fun hp => ?_
    exact absurd ((busy_of_phase (s := s) hp rfl).symm.trans hb) nofun

theorem headerWhenValid_of_exec_command {i : Instr} (hi : isCommand i = true) (h : HeaderWhenValid s)
    (hx : exec i s = .next t) : HeaderWhenValid t := by
  rw [exec_eq_command hi] at hx
  rcases command_cases hx with ⟨_, ht⟩ | ⟨hb, ht⟩ <;> cases ht
  · exact h
  · cases i
    case csumClear | csumFold => exact h
    case hdrBuildRd | hdrBuildWr => exact headerWhenValid_hdrBuild (s := accept s) _ h hb
    case testConnection => exact headerWhenValid_of_keepsHeader h ⟨rfl, id, nofun⟩
    case readValue => exact headerWhenValid_of_keepsHeader h ⟨rfl, nofun, nofun⟩
    all_goals cases hi

theorem keepsHeader_regWrite (i : Byte) (v : Word) (s : State) : keepsHeader s (regWrite i v s) := by
  rcases regWrite_cases i v s with hw | ⟨_, ⟨_, hw⟩ | ⟨_, _, hw⟩ | ⟨_, hw⟩ | ⟨_, _, _, hw⟩⟩ <;> rw [hw] <;>
    exact ⟨rfl, id, id⟩

theorem keepsHeader_txAccept (b : Byte) (s : State) : keepsHeader s (txAccept b s) := by
  show keepsHeader s (txAdvance s)
  unfold txAdvance
  split
  case h_1 | h_2 =>
    split
    · exact ⟨rfl, id, id⟩
    · exact ⟨rfl, id, nofun⟩
  case h_3 | h_4 => exact ⟨rfl, id, nofun⟩
  all_goals exact ⟨rfl, id, id⟩

/-- The third reply byte is the one place from which a header is sent, and that is a read header. -/
theorem headerWhenValid_handshakeComplete (h : HeaderWhenValid s) : HeaderWhenValid (handshakeComplete s) := by
  rcases handshakeComplete_cases s with ⟨_, hc⟩ | ⟨_, _, hc⟩ | ⟨_, _, ⟨e, _, hc⟩ | ⟨hd, henc, hc⟩⟩ <;> rw [hc]
  · exact headerWhenValid_of_keepsHeader h (keepsHeader_raise _ s)
  · exact headerWhenValid_of_keepsHeader h ⟨rfl, id, nofun⟩
  · exact headerWhenValid_of_keepsHeader h (keepsHeader_raise _ s)
  · exact headerWhenValid_of_encodeHeader henc rfl fun _ => rfl

theorem keepsHeader_rxAck (b : Byte) (s : State) : keepsHeader s (rxAck b s) := by
  unfold rxAck
  split
  · exact ⟨rfl, id, nofun⟩
  · exact keepsHeader_raise _ s

theorem keepsHeader_respLast (b : Byte) (s : State) : keepsHeader s (respLast b s) := by
  rcases respLast_cases b s with ⟨_, _, hl⟩ | ⟨_, hl⟩ <;> rw [hl]
  · exact keepsHeader_raise _ (respChecks b s)
  · exact ⟨rfl, id, nofun⟩

theorem keepsHeader_rxEot (b : Byte) (s : State) : keepsHeader s (rxEot b s) := by
  unfold rxEot
  split
  · exact ⟨rfl, id, nofun⟩
  · exact keepsHeader_raise _ s

theorem headerWhenValid_of_rxByte {b : Byte} (h : HeaderWhenValid s) (hx : rxByte b s = .next t) :
    HeaderWhenValid t := by
  rcases rxByte_next_cases hx with ⟨_, rfl⟩ | ⟨_, hlt, ⟨_, rfl⟩ | ⟨_, rfl⟩⟩ | ⟨_, rfl⟩ |
    ⟨_, ⟨_, rfl⟩ | ⟨_, _, rfl⟩ | ⟨_, rfl⟩ | ⟨_, rfl⟩⟩ | ⟨_, rfl⟩
  · exact h
  · exact h
  · exact headerWhenValid_handshakeComplete (s := { s with echo := s.echo.set s.idx.toNat b hlt }) h
  · exact headerWhenValid_of_keepsHeader h (keepsHeader_rxAck b s)
  · exact h
  · exact h
  · exact h
  · exact headerWhenValid_of_keepsHeader h (keepsHeader_respLast b s)
  · exact headerWhenValid_of_keepsHeader h (keepsHeader_rxEot b s)

theorem keepsHeader_rxTimeout (s : State) : keepsHeader s (rxTimeout s) := by
  rcases rxTimeout_cases s with ht | ⟨e, _, _, ht⟩ <;> rw [ht]
  · exact ⟨rfl, id, id⟩
  · exact ⟨rfl, id, nofun⟩

end

/-- Settles O27: every event's operation keeps the header, discards it, or has the encoder build one. -/
theorem stepKeepsHeaderWhenValid : Obligations.StepKeepsHeaderWhenValid := by
  intro s t h hstep
  have hes (es : List Event) : HeaderWhenValid { s with events := es } := h
  rcases step_next_cases hstep with ⟨_, rfl⟩ | ⟨i, v, es, _, rfl⟩ | ⟨v, e, es, _, _, rfl⟩ |
    ⟨v, i, es, _, _, hi, hx⟩ | ⟨i, v, es, _, _, rfl⟩ | ⟨b, es, _, _, rfl⟩ | ⟨es, _, _, _, rfl⟩ |
    ⟨b, bs, es, _, _, _, hx⟩ | ⟨es, _, _, rfl⟩ | ⟨es, _, rfl⟩ | ⟨p, c, es, _, _, rfl⟩
  · exact h
  · exact h
  · exact h
  · exact headerWhenValid_of_exec_command hi (hes es) hx
  · exact headerWhenValid_of_keepsHeader (hes es) (keepsHeader_regWrite i v _)
  · exact headerWhenValid_of_keepsHeader (hes es) (keepsHeader_txAccept b _)
  · exact h
  · exact headerWhenValid_of_rxByte (s := withInput es bs s) h hx
  · exact h
  · exact headerWhenValid_of_keepsHeader (hes es) (keepsHeader_rxTimeout _)
  · exact ⟨nofun, nofun⟩

/-! ## The size check -/

theorem encodeHeader_ne_sizeOverflow (op : Nibble) (s : State) : encodeHeader op s ≠ .error .sizeOverflow := by
  intro henc
  rcases encodeHeader_error henc with he | he <;> cases he

/-- t records no SIZE_OVERFLOW that s does not. -/
def addsNoOverflow (s t : State) : Prop := t.err = .sizeOverflow → s.err = .sizeOverflow

section
variable {s t : State}

theorem addsNoOverflow_raise {e : ErrCode} (he : e ≠ .sizeOverflow) : addsNoOverflow s (raise e t) :=
  fun h => absurd h he

/-- No error of the encoder is one (42_header_encoder.md R167). -/
theorem ne_sizeOverflow_of_encodeHeader {op : Nibble} {e : ErrCode} (henc : encodeHeader op s = .error e) :
    e ≠ .sizeOverflow := by
  rintro rfl
  exact encodeHeader_ne_sizeOverflow op s henc

theorem addsNoOverflow_hdrBuild (op : Nibble) (s : State) : addsNoOverflow s (hdrBuild op s) := by
  rcases hdrBuild_cases op s with ⟨e, henc, hbuild⟩ | ⟨hd, _, hbuild⟩ <;> rw [hbuild]
  · exact addsNoOverflow_raise (ne_sizeOverflow_of_encodeHeader henc)
  · exact id

theorem addsNoOverflow_commandBody (i : Instr) (s : State) : addsNoOverflow s (commandBody i s) := by
  cases i
  case hdrBuildRd | hdrBuildWr => exact addsNoOverflow_hdrBuild _ s
  all_goals exact id

theorem addsNoOverflow_of_exec_command {i : Instr} (hi : isCommand i = true) (hx : exec i s = .next t) :
    addsNoOverflow s t := by
  rw [exec_eq_command hi] at hx
  rcases command_cases hx with ⟨_, ht⟩ | ⟨_, ht⟩ <;> cases ht
  · exact id
  · exact fun h => absurd (addsNoOverflow_commandBody i (accept s) h) nofun

theorem addsNoOverflow_regWrite (i : Byte) (v : Word) (s : State) : addsNoOverflow s (regWrite i v s) := by
  rcases regWrite_cases i v s with hw | ⟨_, ⟨_, hw⟩ | ⟨_, _, hw⟩ | ⟨_, hw⟩ | ⟨_, _, _, hw⟩⟩ <;> rw [hw] <;> exact id

theorem addsNoOverflow_txAccept (b : Byte) (s : State) : addsNoOverflow s (txAccept b s) := by
  show addsNoOverflow s (txAdvance s)
  unfold txAdvance
  split
  case h_1 | h_2 => split <;> exact id
  all_goals exact id

theorem addsNoOverflow_handshakeComplete (s : State) : addsNoOverflow s (handshakeComplete s) := by
  rcases handshakeComplete_cases s with ⟨_, hc⟩ | ⟨_, _, hc⟩ | ⟨_, _, ⟨e, henc, hc⟩ | ⟨hd, _, hc⟩⟩ <;> rw [hc]
  · exact addsNoOverflow_raise nofun
  · exact id
  · exact addsNoOverflow_raise (ne_sizeOverflow_of_encodeHeader henc)
  · exact id

theorem addsNoOverflow_rxAck (b : Byte) (s : State) : addsNoOverflow s (rxAck b s) := by
  unfold rxAck
  split
  · exact id
  · exact addsNoOverflow_raise nofun

theorem addsNoOverflow_respLast (b : Byte) (s : State) : addsNoOverflow s (respLast b s) := by
  rcases respLast_cases b s with ⟨_, _, hl⟩ | ⟨_, hl⟩ <;> rw [hl]
  · exact addsNoOverflow_raise nofun
  · exact id

theorem addsNoOverflow_rxEot (b : Byte) (s : State) : addsNoOverflow s (rxEot b s) := by
  unfold rxEot
  split
  · exact id
  · exact addsNoOverflow_raise nofun

theorem addsNoOverflow_of_rxByte {b : Byte} (hx : rxByte b s = .next t) : addsNoOverflow s t := by
  rcases rxByte_next_cases hx with ⟨_, rfl⟩ | ⟨_, hlt, ⟨_, rfl⟩ | ⟨_, rfl⟩⟩ | ⟨_, rfl⟩ |
    ⟨_, ⟨_, rfl⟩ | ⟨_, _, rfl⟩ | ⟨_, rfl⟩ | ⟨_, rfl⟩⟩ | ⟨_, rfl⟩
  · exact id
  · exact id
  · exact addsNoOverflow_handshakeComplete { s with echo := s.echo.set s.idx.toNat b hlt }
  · exact addsNoOverflow_rxAck b s
  · exact id
  · exact id
  · exact id
  · exact addsNoOverflow_respLast b s
  · exact addsNoOverflow_rxEot b s

theorem addsNoOverflow_rxTimeout (s : State) : addsNoOverflow s (rxTimeout s) := by
  rcases rxTimeout_cases s with ht | ⟨e, he, hb, ht⟩
  · rw [ht]
    exact id
  · rw [ht, ← raise_of_busy hb]
    rcases he with rfl | rfl <;> exact addsNoOverflow_raise nofun

theorem addsNoOverflow_of_step (hstep : step s = .next t) : addsNoOverflow s t := by
  rcases step_next_cases hstep with ⟨_, rfl⟩ | ⟨i, v, es, _, rfl⟩ | ⟨v, e, es, _, _, rfl⟩ |
    ⟨v, i, es, _, _, hi, hx⟩ | ⟨i, v, es, _, _, rfl⟩ | ⟨b, es, _, _, rfl⟩ | ⟨es, _, _, _, rfl⟩ |
    ⟨b, bs, es, _, _, _, hx⟩ | ⟨es, _, _, rfl⟩ | ⟨es, _, rfl⟩ | ⟨p, c, es, _, _, rfl⟩
  · exact id
  · exact id
  · exact id
  · exact addsNoOverflow_of_exec_command (s := { s with events := es }) hi hx
  · exact addsNoOverflow_regWrite i v { s with events := es }
  · exact addsNoOverflow_txAccept b { s with events := es }
  · exact id
  · exact addsNoOverflow_of_rxByte (s := withInput es bs s) hx
  · exact id
  · exact addsNoOverflow_rxTimeout { s with events := es }
  · exact nofun

end

/-- Settles O25: the split by the width of SIZE, and that no operation raises SIZE_OVERFLOW. -/
theorem sizeOverflowNeverFires : Obligations.SizeOverflowNeverFires := by
  refine ⟨fun size => ⟨splitSize_eq size, ?_⟩, rfl, rfl, fun s op => encodeHeader_ne_sizeOverflow op s,
    fun _ _ => addsNoOverflow_of_step⟩
  have := size.isLt
  omega

end Sys2Proof.Machine
end

section
/-! PROOFS of the statement about a whole TEST_CONNECTION (41_handshake.md): its enquiry, and the two ends that its
reply can bring. -/

namespace Sys2Proof.Machine

section
variable {s : State} {es : List Event} {bs : List Byte}

/-- The three bytes of a reply are stored, and the third completes the handshake (41_handshake.md R144). -/
theorem runsTo_reply {r0 r1 r2 : Byte} (hp : s.phase = .enqRx) (hi : s.idx = 0)
    (he : s.events = .rx :: .rx :: .rx :: es) (hbs : s.rxStream = r0 :: r1 :: r2 :: bs) :
    runsTo 3 s (handshakeComplete { withInput es bs s with echo := #v[r0, r1, r2], idx := 2 }) := by
  have hr : rxReady s = true := rxReady_of_phase hp rfl
  refine runsTo_rx he hr hbs (rxByte_enqRx_first _ hp hi) ?_
  refine runsTo_rx rfl hr rfl (rxByte_enqRx_second _ hp rfl) ?_
  refine runsTo_rx rfl hr rfl (rxByte_enqRx_of_eq_two _ hp rfl) ?_
  rw [vector3_set_all]
  rfl

/-- The enquiry of an accepted TEST_CONNECTION is sent, and its reply completes the handshake. -/
theorem runsTo_testConnection {r0 r1 r2 : Byte} (hb : busy s = false)
    (he : s.events = .regWr 0x00 0x0005 :: .txAcc :: .txAcc :: .txAcc :: .rx :: .rx :: .rx :: es)
    (hbs : s.rxStream = r0 :: r1 :: r2 :: bs) :
    runsTo 7 s (handshakeComplete
      { s with
        events := es, rxStream := bs, txStream := s.txStream ++ (enqFrame s.cfg).toList, echo := #v[r0, r1, r2],
        opk := .testConnection, idx := 2, phase := .enqRx, hostErr := false, done := false, err := .none }) := by
  have hsent := runsTo_sendFrame (n := 2) (es := .rx :: .rx :: .rx :: es)
    (s := startHandshake .testConnection (accept { s with events := _ })) (.inl ⟨rfl, rfl, rfl⟩) rfl rfl rfl
  exact runsTo_succ (step_of_accepted he rfl hb) (runsTo_trans (m := 3) (n := 3) hsent (runsTo_reply rfl rfl rfl hbs))

end

/-- The expected reply, byte by byte (30_encoding.md R86, 41_handshake.md R141). -/
theorem eq_expFrame_iff (r0 r1 r2 : Byte) (p : Params) :
    #v[r0, r1, r2] = expFrame p ↔ r0 = 0x4E ∧ r1 = 0x20 + p.clientId.setWidth 8 ∧ r2 = 0x06 := by
  rw [← Vector.toList_inj]
  show [r0, r1, r2] = [0x4E, 0x20 + p.clientId.setWidth 8, 0x06] ↔ _
  simp

/-- Settles O31: the run up to the completed handshake, which ends by the reply. -/
theorem testConnectionExchange : Obligations.TestConnectionExchange := by
  intro s r0 r1 r2 es bs hb he hbs ok t
  have hrun := runsTo_testConnection hb he hbs
  have hexpected : #v[r0, r1, r2] = expFrame s.cfg ↔ ok := eq_expFrame_iff r0 r1 r2 s.cfg
  constructor
  · intro hok
    rw [handshakeComplete_of_testConnection (hexpected.mpr hok) rfl] at hrun
    exact hrun
  · intro hbad
    rw [handshakeComplete_of_mismatch (mt hexpected.mp hbad), raise_of_busy rfl] at hrun
    exact hrun

end Sys2Proof.Machine
end

section
/-! PROOFS of the statements about the step and the ports (40_host_interface.md): which event brings which word, the
word that the step runs, the outputs by the phase, and each link byte in its place in the frames. -/

namespace Sys2Proof.Machine

section
variable {s : State} {b : Byte} {es : List Event}

/-! ## The word an event brings -/

/-- A command word comes with a host write to CMD, and with nothing else. -/
theorem fetch_eq_cmd_iff {v : Word} : fetch s = some (.cmd v) ↔ ∃ es, s.events = .regWr 0x00 v :: es := by
  unfold fetch
  split
  case h_1 i w es he =>
    rw [he]
    split
    · rename_i hi
      simp [hi]
    · rename_i hi
      exact iff_of_false nofun fun ⟨_, h⟩ => hi (by cases h; rfl)
  case h_2 es he => simp [he]
  case h_3 es he => split <;> simp [he]
  all_goals
    rename_i he
    simp [he]

/-- A link byte comes with TX_ACC, as the byte offered, or with an enabled RX, as the partner's next byte. -/
theorem fetch_eq_link_iff :
    fetch s = some (.link b) ↔
      (∃ es, s.events = .txAcc :: es ∧ txByte s = some b) ∨
      (∃ es bs, s.events = .rx :: es ∧ rxReady s = true ∧ s.rxStream = b :: bs) := by
  unfold fetch
  split
  case h_1 i w es he => split <;> simp [he]
  case h_2 es he => simp [he]
  case h_3 es he =>
    split
    · rename_i hr
      simp [he, hr, List.head?_eq_some_iff]
    · rename_i hr
      simp [he, hr]
  all_goals
    rename_i he
    simp [he]

/-- What an event takes: itself, and an enabled RX the partner's next byte too. -/
theorem consume_eq (s : State) :
    consume s =
      { s with
        events := s.events.tail,
        rxStream := if s.events.head? = some .rx ∧ rxReady s = true then s.rxStream.tail else s.rxStream } := by
  unfold consume
  split
  case h_1 es he => simp [he]
  case h_2 e es hne he =>
    have hrx : e ≠ .rx := hne
    simp [he, hrx]
  case h_3 he =>
    have hheld : s = { s with events := [] } := congrArg (fun es => { s with events := es }) he
    simpa [he] using hheld

/-- Settles O6: the word is decoded and run, and comes with the events that can bring one. -/
theorem stepRunsDecodedInstruction : Obligations.StepRunsDecodedInstruction := by
  intro s
  refine ⟨fun w i hf hd => ?_, fun v => fetch_eq_cmd_iff, fun b => fetch_eq_link_iff, consume_eq s⟩
  rw [step_of_fetch hf, runWord, hd]

/-! ## The transfer of one byte -/

/-- An enabled RX is the transfer of the partner's next byte (40_host_interface.md R133). -/
theorem step_rx_eq_linkByte {bs : List Byte} (he : s.events = .rx :: es) (hr : rxReady s = true)
    (hb : s.rxStream = b :: bs) : step s = linkByte b { s with events := es, rxStream := bs } := by
  have hr' : rxReady { s with events := es, rxStream := bs } = true := hr
  rw [step_rx he hr hb, linkByte, if_pos hr']

/-- TX_ACC is the transfer of the offered byte (40_host_interface.md R132). -/
theorem step_txAcc_eq_linkByte (he : s.events = .txAcc :: es) (hb : txByte s = some b) :
    step s = linkByte b { s with events := es } := by
  obtain ⟨hlink, _⟩ := transferGives_txAccept (s := { s with events := es }) hb
  rw [step_txAcc he hb, hlink]

/-- Settles O9: the two transfers. -/
theorem portEventTransfersOneByte : Obligations.PortEventTransfersOneByte :=
  fun _ _ _ => ⟨fun _ he hr hb => step_rx_eq_linkByte he hr hb, fun he hb => step_txAcc_eq_linkByte he hb⟩

/-! ## A word placed for the next step -/

theorem withFetchWord_cmd (s : State) (v : Word) : s.withFetchWord 16 v.toNat = placeWord (.cmd v) s := by
  rw [State.withFetchWord, if_pos rfl, BitVec.ofNat_toNat, BitVec.setWidth_eq]

theorem withFetchWord_link (s : State) (b : Byte) : s.withFetchWord 8 b.toNat = placeWord (.link b) s := by
  rw [State.withFetchWord, if_neg (by decide), BitVec.ofNat_toNat, BitVec.setWidth_eq]

theorem step_placeWord_cmd {v : Word} {i : Instr} (hd : decodeCmd v = .ok i) (s : State) :
    step (placeWord (.cmd v) s) = exec i s := by
  rw [step_cmd (s := placeWord (.cmd v) s) rfl, runWord_cmd_of_decodeCmd hd]
  rfl

/-- A placed link byte is transferred where the block reads or offers it, else at the first byte of ENQ_RX (log 1). -/
theorem step_placeWord_link (b : Byte) (s : State) :
    step (placeWord (.link b) s) =
      linkByte b (if rxReady s = true ∨ txByte s = some b then s else { s with phase := .enqRx, idx := 0 }) := by
  unfold placeWord
  dsimp only
  by_cases hb : txByte s = some b
  · have hb' : txByte { s with events := .txAcc :: s.events } = some b := hb
    rw [if_pos hb, if_pos (.inr hb), step_txAcc_eq_linkByte rfl hb']
  · by_cases hr : rxReady s = true
    · have hr' : rxReady { s with events := .rx :: s.events, rxStream := b :: s.rxStream } = true := hr
      rw [if_neg hb, if_pos hr, if_pos (.inl hr), step_rx_eq_linkByte rfl hr' rfl]
    · rw [if_neg hb, if_neg hr, if_neg (not_or.mpr ⟨hr, hb⟩), step_rx_eq_linkByte rfl rfl rfl]

/-- Settles O7: the placed word is fetched, and decodes to its instruction. -/
theorem placedWordIsRunNext : Obligations.PlacedWordIsRunNext := by
  intro s i
  have hdecode := decode_encode i
  constructor
  · intro v hv
    rw [hv] at hdecode
    rw [withFetchWord_cmd, step_placeWord_cmd hdecode]
  · intro b hb
    rw [hb] at hdecode
    rw [withFetchWord_link, step_placeWord_link, exec_linkRow (decodeLink_mem_linkRows hdecode)]

/-! ## The outputs -/

theorem txValid_iff_mem (s : State) : txValid s = true ↔ s.phase ∈ [.enqTx, .hdrTx, .ackTx, .eotTx] := by
  rw [txValid]
  cases s.phase <;> decide

theorem rxReady_iff_mem (s : State) : rxReady s = true ↔ s.phase ∈ [.enqRx, .ackRx, .respRx, .eotRx] := by
  rw [rxReady]
  cases s.phase <;> decide

/-- Where the block offers a byte, that byte is the output. -/
theorem txByteOut_of_txByte (h : txByte s = some b) : txByteOut s = b := by
  rw [txByteOut, h, Option.getD_some]

/-- An element of the frame at IDX is the output, if the frame is what the block offers from. -/
theorem getElem?_eq_txByteOut {frame : List Byte} {k : Nat} (h : txByte s = frame[s.idx.toNat]?) (hi : s.idx.toNat = k)
    (hk : k < frame.length) : frame[k]? = some (txByteOut s) := by
  subst hi
  rw [List.getElem?_eq_getElem hk] at h ⊢
  rw [txByteOut_of_txByte h]

/-- Settles O10: each output by the phase. -/
theorem portOutputsFollowPhase : Obligations.PortOutputsFollowPhase := by
  intro s
  refine ⟨txValid_iff_mem s, rxReady_iff_mem s, busy_iff_phase_code s, fun k hp hi hk => ?enquiry,
    fun k hp hi hk => ?header, fun hp => txByteOut_of_txByte (txByte_of_ackTx hp),
    fun hp => txByteOut_of_txByte (txByte_of_eotTx hp), fun hv => ?silent, rfl⟩
  case enquiry => exact getElem?_eq_txByteOut (txByte_of_enqTx hp) hi hk
  case header => exact getElem?_eq_txByteOut (txByte_of_hdrTx hp) hi (by rwa [Vector.length_toList])
  case silent => rw [txByteOut, txByte_of_not_txValid hv, Option.getD_none]

/-! ## The link bytes in their places -/

/-- Settles O41: neither RX nor TX_ACC of the byte. -/
theorem noTransferLeavesState : Obligations.NoTransferLeavesState := by
  intro s b hr hb
  exact transferGives_of_linkByte (by simp [linkByte, hr, hb])

theorem exec_of_transferGives {i : Instr} {t : State} (hrow : (i, b) ∈ linkRows) (h : transferGives b s t) :
    exec i s = .next t := by
  obtain ⟨_, hrows⟩ := h
  exact hrows i hrow

/-- A byte of the header before its last one is sent from its place (45_read_transaction.md R222). -/
theorem exec_header_row {i : Instr} {k : Nat} (hrow : (i, b) ∈ linkRows) (hp : s.phase = .hdrTx)
    (hi : s.idx.toNat = k) (hk : k < 16) (hb : s.hdr[k] = b) :
    exec i s = .next { s with txStream := s.txStream ++ [txByteOut s], idx := s.idx + 1 } := by
  subst hi
  have hbyte : s.hdr.toList[s.idx.toNat]? = some b := by
    rw [Vector.getElem?_toList, Vector.getElem?_eq_some_iff]
    exact ⟨_, hb⟩
  have hsent := headerByteAccepted s b hp hbyte
  rw [if_pos hk] at hsent
  rw [txByteOut_of_txByte ((txByte_of_hdrTx hp).trans hbyte), exec_of_transferGives hrow hsent]

end

/-- Settles O40: each row's byte is transferred in its place, where the frame's own statement says what follows. -/
theorem linkRowsInTheirPlaces : Obligations.LinkRowsInTheirPlaces := by
  intro s sent
  have toNat {k : BitVec 17} (hi : s.idx = k) : s.idx.toNat = k.toNat := congrArg BitVec.toNat hi
  refine ⟨?soh, ?opRead, ?etb, ?enq, ?ack, ?nak, ?stx, ?data, ?etx, ?dataAck, ?eot, ?closingEot⟩
  case soh => exact fun hp hi hb => exec_header_row (by decide) hp (toNat hi) (by decide) hb
  case opRead => exact fun hp hi hb => exec_header_row (by decide) hp (toNat hi) (by decide) hb
  case etb => exact fun hp hi hb => exec_header_row (by decide) hp (toNat hi) (by decide) hb
  case enq =>
    intro hp hi
    have hsent := enquiryByteAccepted s 0x05 hp (by rw [hi]; rfl)
    rw [hi] at hsent
    exact exec_of_transferGives (by decide) hsent
  case ack =>
    intro hp
    obtain ⟨hack, _⟩ := replyAndEotReceived s 0x06
    exact exec_of_transferGives (by decide) (hack hp rfl)
  case nak =>
    intro hp
    obtain ⟨_, hnak, _⟩ := replyAndEotReceived s 0x15
    exact exec_of_transferGives (by decide) (hnak hp (by decide))
  case stx =>
    intro hp hi
    obtain ⟨hstx, _⟩ := responseByteBeforeLast s 0x02 hp
    exact exec_of_transferGives (by decide) (hstx (toNat hi))
  case data =>
    intro hp h1 hi i b hrow
    obtain ⟨_, hdata, _⟩ := responseByteBeforeLast s b hp
    exact exec_of_transferGives hrow (hdata h1 hi)
  case etx =>
    intro hp hi
    obtain ⟨_, _, hetx⟩ := responseByteBeforeLast s 0x03 hp
    exact exec_of_transferGives (by decide) (hetx hi)
  case dataAck =>
    intro hp
    obtain ⟨hack, _⟩ := ackAndEotAccepted s
    exact exec_of_transferGives (by decide) (hack hp)
  case eot =>
    intro hp
    obtain ⟨_, _, heot, _⟩ := replyAndEotReceived s 0x04
    exact exec_of_transferGives (by decide) (heot hp rfl)
  case closingEot =>
    intro hp
    obtain ⟨_, heot⟩ := ackAndEotAccepted s
    exact exec_of_transferGives (by decide) (heot hp)

end Sys2Proof.Machine
end
